-- ==== Sys2Proof/Word.lean ====
section
/-! DEFINITION. The word types of the engine (00_scope.md R10, R11): every value on the wire, in a buffer or in the
checksum is one byte; a command and a response are 32 bits; the A field of a command is 9 bits. -/

namespace Sys2Proof

/-- A byte: the wire, the buffers, the checksum, the session registers (R10). -/
abbrev Byte := BitVec 8

/-- A command word or a response word (R10, 30_encoding.md R72). -/
abbrev Word := BitVec 32

/-- The A field of a command: an index or a length, 0 to 511 (30_encoding.md R73). -/
abbrev Index := BitVec 9

end Sys2Proof
end

