-- ==== Sys2Proof/Syntax.lean ====
section
/-! DEFINITION. The commands of command interface version 1 (30_encoding.md R75): one constructor for each row of
spec/opcode_table.json, in the table's order, with the operands the row uses. -/

namespace Sys2Proof

/-- One command. `d` is the D field, `a` the A field (30_encoding.md R73). -/
inductive Instr where
  /-- NOP (44_system.md R210) -/
  | nop
  /-- CHK_SEED, D = seed (40_checksum.md R102) -/
  | chkSeed (d : Byte)
  /-- CHK_FOLD, D = byte (40_checksum.md R103) -/
  | chkFold (d : Byte)
  /-- RX_FEED, D = the inbound byte (41_receiver.md R120) -/
  | rxFeed (d : Byte)
  /-- RX_RESET (41_receiver.md R131) -/
  | rxReset
  /-- RX_READ, A = index (41_receiver.md R132) -/
  | rxRead (a : Index)
  /-- TX_LOAD, A = index, D = byte (42_transmitter.md R151) -/
  | txLoad (a : Index) (d : Byte)
  /-- TX_BEGIN, A = length (42_transmitter.md R152) -/
  | txBegin (a : Index)
  /-- TX_NEXT (42_transmitter.md R153) -/
  | txNext
  /-- TX_RESET (42_transmitter.md R154) -/
  | txReset
  /-- ARQ_SEND, A = length (43_arq.md R182) -/
  | arqSend (a : Index)
  /-- ACK, D = acknowledgement byte (43_arq.md R184) -/
  | ack (d : Byte)
  /-- ARQ_ABORT (43_arq.md R185) -/
  | arqAbort
  /-- READ, D = register index (44_system.md R211) -/
  | read (d : Byte)
  /-- CLR_ILL (44_system.md R212) -/
  | clrIll
  /-- the reserved operation OP = 0xF with any 28 bits `x` below it: always illegal (30_encoding.md R75, R77) -/
  | reserved (x : BitVec 28)
deriving DecidableEq, Repr

/-- Why the decoder answers Illegal (30_encoding.md R74, R76). All three have the same effect (44_system.md R213). -/
inductive IllegalWord where
  /-- RSV = cmd[27:17] is not zero -/
  | reservedBits
  /-- an A or D field the operation does not use is not zero -/
  | unusedField
  /-- READ of a register index above 0x07 -/
  | registerIndex
deriving DecidableEq, Repr

/-- What a command word decodes to: exactly one command, or Illegal (30_encoding.md R76). -/
inductive Decoded where
  | command (i : Instr)
  | illegal (why : IllegalWord)
deriving DecidableEq, Repr

end Sys2Proof
end

