-- ==== Sys2Proof/Config.lean ====
section
/-! DEFINITION. What one instance of the engine fixes (00_scope.md R5 to R9) and the free values: what a buffer byte
that nothing has written since power-on holds (70_reset_and_hazards.md R261, 93_implementation_defined.md rows 8, 9). -/

namespace Sys2Proof

/-- The configuration of one instance: fixed, changed by no command (00_scope.md section 4). MAX_PAYLOAD above 255
cannot be written down; the other constraints are `Config.wf`. -/
structure Config where
  /-- the frame-start sentinel STX (R5) -/
  stx : Byte
  /-- the frame-end sentinel ETX (R5) -/
  etx : Byte
  /-- the acknowledgement byte ACK (R5) -/
  ack : Byte
  /-- the negative acknowledgement byte NAK (R5) -/
  nak : Byte
  /-- MAX_PAYLOAD, the size of each payload buffer (R6) -/
  maxPayload : Byte
  /-- RX_AUTO_RESET, the receiver's terminal policy (R7) -/
  rxAutoReset : Bool
  /-- RETRY_BUDGET, how often one send puts its frame on the wire (R8) -/
  retryBudget : Byte
  /-- ACK_TIMEOUT in cycles, 0 for none (R9) -/
  ackTimeout : BitVec 16
deriving DecidableEq, Repr

/-- The values this spec takes (the table of 00_scope.md section 4). -/
def Config.specDefault : Config where
  stx := 0x02
  etx := 0x03
  ack := 0x06
  nak := 0x15
  maxPayload := 255
  rxAutoReset := false
  retryBudget := 3
  ackTimeout := 0

/-- The two buffers (20_memory.md R50). -/
inductive Space where
  | txbuf
  | rxbuf
deriving DecidableEq, Repr

/-- FREE VALUE: what each byte of a buffer holds since power-on while nothing has written it ("any value per byte",
93_implementation_defined.md rows 8 and 9). It has no body, so nothing can be proved of it. Logs 5 and 6. -/
opaque Config.powerOnByte : Space → Nat → Byte

end Sys2Proof
end

