-- ==== Sys2Proof/WellFormed.lean ====
section
/-! DEFINITION. The checks on a command and on a configuration: what the encoding admits (30_encoding.md R75, R76) and
which configurations are instances of the engine (00_scope.md R5 to R9). -/

namespace Sys2Proof

/-- A command the encoding admits: READ names one of the registers 0x00 to 0x07 (30_encoding.md R75, R76). Every other
operand value is admitted. -/
def Instr.wf : Instr → Bool
  | .nop => true
  | .chkSeed _ => true
  | .chkFold _ => true
  | .rxFeed _ => true
  | .rxReset => true
  | .rxRead _ => true
  | .txLoad _ _ => true
  | .txBegin _ => true
  | .txNext => true
  | .txReset => true
  | .arqSend _ => true
  | .ack _ => true
  | .arqAbort => true
  | .read d => d.toNat ≤ 7
  | .clrIll => true
  | .reserved _ => true

/-- A configuration that is an instance of the engine: STX ≠ ETX and ACK ≠ NAK (00_scope.md R5), RETRY_BUDGET at least
1 (R8). The ranges of the other parameters are their widths. -/
def Config.wf (c : Config) : Bool :=
  c.stx ≠ c.etx && c.ack ≠ c.nak && 1 ≤ c.retryBudget.toNat

end Sys2Proof
end

