-- ==== Sys2Proof/Decode.lean ====
section
/-! DEFINITION. The decoder of command words (30_encoding.md R72 to R76), then the encoder written from the same table,
and the byte order of a word carried over a byte-wide path (20_memory.md R54). -/

namespace Sys2Proof

/-- OP = cmd[31:28] (R73). -/
def fieldOp (w : Word) : BitVec 4 := w.extractLsb' 28 4

/-- RSV = cmd[27:17] (R73). -/
def fieldRsv (w : Word) : BitVec 11 := w.extractLsb' 17 11

/-- A = cmd[16:8] (R73). -/
def fieldA (w : Word) : Index := w.extractLsb' 8 9

/-- D = cmd[7:0] (R73). -/
def fieldD (w : Word) : Byte := w.extractLsb' 0 8

/-- X = cmd[27:0], the bits under OP = 0xF (opcode_table.json, the reserved row). -/
def fieldX (w : Word) : BitVec 28 := w.extractLsb' 0 28

/-- The operations that use the A field: 0x5, 0x6, 0x7, 0xA (R76). -/
def usesA (op : BitVec 4) : Bool := op = 0x5 || op = 0x6 || op = 0x7 || op = 0xA

/-- The operations that use the D field: 0x1, 0x2, 0x3, 0x6, 0xB, 0xD (R76). -/
def usesD (op : BitVec 4) : Bool := op = 0x1 || op = 0x2 || op = 0x3 || op = 0x6 || op = 0xB || op = 0xD

/-- The row of the opcode map that OP selects, with its operands (R75). -/
def selectCommand (op : BitVec 4) (a : Index) (d : Byte) (x : BitVec 28) : Instr :=
  match op.toNat with
  | 0x0 => .nop
  | 0x1 => .chkSeed d
  | 0x2 => .chkFold d
  | 0x3 => .rxFeed d
  | 0x4 => .rxReset
  | 0x5 => .rxRead a
  | 0x6 => .txLoad a d
  | 0x7 => .txBegin a
  | 0x8 => .txNext
  | 0x9 => .txReset
  | 0xA => .arqSend a
  | 0xB => .ack d
  | 0xC => .arqAbort
  | 0xD => .read d
  | 0xE => .clrIll
  | _ => .reserved x

/-- The decoder (R76): total, every word is one command or Illegal. A word with OP = 0xF is the table's reserved row
whatever its other bits are (mask 0xF0000000), so that test comes first; its effect is that of Illegal (log 11). -/
def decode (w : Word) : Decoded :=
  if fieldOp w = 0xF then .command (.reserved (fieldX w))
  else if fieldRsv w ≠ 0 then .illegal .reservedBits
  else if !usesA (fieldOp w) && fieldA w ≠ 0 then .illegal .unusedField
  else if !usesD (fieldOp w) && fieldD w ≠ 0 then .illegal .unusedField
  else if fieldOp w = 0xD && 7 < (fieldD w).toNat then .illegal .registerIndex
  else .command (selectCommand (fieldOp w) (fieldA w) (fieldD w) (fieldX w))

/-- A command word from its fields, RSV = 0 (R72). -/
def packWord (op : BitVec 4) (a : Index) (d : Byte) : Word := op ++ (0 : BitVec 11) ++ a ++ d

/-- The encoder: the word of each row of the opcode map (R75, R84). -/
def encode : Instr → Word
  | .nop => packWord 0x0 0 0
  | .chkSeed d => packWord 0x1 0 d
  | .chkFold d => packWord 0x2 0 d
  | .rxFeed d => packWord 0x3 0 d
  | .rxReset => packWord 0x4 0 0
  | .rxRead a => packWord 0x5 a 0
  | .txLoad a d => packWord 0x6 a d
  | .txBegin a => packWord 0x7 a 0
  | .txNext => packWord 0x8 0 0
  | .txReset => packWord 0x9 0 0
  | .arqSend a => packWord 0xA a 0
  | .ack d => packWord 0xB 0 d
  | .arqAbort => packWord 0xC 0 0
  | .read d => packWord 0xD 0 d
  | .clrIll => packWord 0xE 0 0
  | .reserved x => (0xF : BitVec 4) ++ x

/-- The match and mask of each row of the opcode map (R75): a word w is this command only if w AND mask = match. -/
def opcodeRow : Instr → Word × Word
  | .nop => (0x00000000, 0xFFFFFFFF)
  | .chkSeed _ => (0x10000000, 0xFFFFFF00)
  | .chkFold _ => (0x20000000, 0xFFFFFF00)
  | .rxFeed _ => (0x30000000, 0xFFFFFF00)
  | .rxReset => (0x40000000, 0xFFFFFFFF)
  | .rxRead _ => (0x50000000, 0xFFFE00FF)
  | .txLoad _ _ => (0x60000000, 0xFFFE0000)
  | .txBegin _ => (0x70000000, 0xFFFE00FF)
  | .txNext => (0x80000000, 0xFFFFFFFF)
  | .txReset => (0x90000000, 0xFFFFFFFF)
  | .arqSend _ => (0xA0000000, 0xFFFE00FF)
  | .ack _ => (0xB0000000, 0xFFFFFF00)
  | .arqAbort => (0xC0000000, 0xFFFFFFFF)
  | .read _ => (0xD0000000, 0xFFFFFF00)
  | .clrIll => (0xE0000000, 0xFFFFFFFF)
  | .reserved _ => (0xF0000000, 0xF0000000)

/-- A word carried over a byte-wide path: bits 7:0 first (20_memory.md R54). -/
def wordToBytes (w : Word) : List Byte :=
  [w.extractLsb' 0 8, w.extractLsb' 8 8, w.extractLsb' 16 8, w.extractLsb' 24 8]

/-- The word that four bytes carry, the least significant first (20_memory.md R54). -/
def wordOfBytes : List Byte → Option Word
  | [b0, b1, b2, b3] => some (b3 ++ b2 ++ b1 ++ b0)
  | _ => none

/-- The command carried by a path's next four bytes and the bytes after it; none when fewer than four are left. -/
def decodeBytes : List Byte → Option (Decoded × List Byte)
  | b0 :: b1 :: b2 :: b3 :: rest => (wordOfBytes [b0, b1, b2, b3]).map fun w => (decode w, rest)
  | _ => none

/-- The instruction that the decoder reads from a table word of `nbits` bits (bit 0 the least significant); none where
it answers Illegal or where the word is longer than the one command format, 32 bits (30_encoding.md R83). -/
def decodeTableWord (nbits w : Nat) : Option Instr :=
  if 32 < nbits then none
  else
    match decode (BitVec.ofNat 32 (w % 2 ^ nbits)) with
    | .command i => some i
    | .illegal _ => none

end Sys2Proof
end

