-- ==== Sys2Proof/Machine/State.lean ====
section
/-! DEFINITION. The state of the engine as plain data (10_state.md R21 to R28), what a step carries
beside it, the ports of a cycle (30_encoding.md R70), the reasons a step can stop, and the state after reset
(10_state.md R42, 70_reset_and_hazards.md R260). -/

namespace Sys2Proof.Machine

/-- A payload buffer: the bytes written since power-on, as (index, byte) pairs with strictly rising indices
(`Memory.wf`). An index that is not listed holds what it held at power-on, `Config.powerOnByte`. -/
abbrev Memory := List Host.Cell

/-- The receiver's states (10_state.md R23). -/
inductive RxState where
  | waitStx
  | waitLen
  | readData
  | checkChk
  | waitEtx
  | done
  | error
deriving DecidableEq, Repr

/-- The receiver's error kinds (10_state.md R23). -/
inductive RxErr where
  | none
  | overflow
  | checksumMismatch
  | framingError
deriving DecidableEq, Repr

/-- The transmitter's states (10_state.md R25). -/
inductive TxState where
  | idle
  | sendStx
  | sendLen
  | sendData
  | sendChk
  | sendEtx
  | done
  | error
deriving DecidableEq, Repr

/-- The transmitter's error kinds (10_state.md R25). -/
inductive TxErr where
  | none
  | overflow
deriving DecidableEq, Repr

/-- The ARQ controller's states (10_state.md R27). -/
inductive ArqState where
  | idle
  | sending
  | waitAck
  | acked
  | exhausted
  | overflow
deriving DecidableEq, Repr

/-- The RX unit: the RX session registers rx_state, rx_err, rx_len, rx_count, rx_chk and RXBUF (10_state.md R23, R24). -/
structure RxUnit where
  state : RxState
  err : RxErr
  len : Byte
  count : Byte
  chk : Byte
  buf : Memory
deriving DecidableEq, Repr

/-- The TX unit: the TX session registers tx_state, tx_err, tx_len, tx_cursor, tx_chk and TXBUF (10_state.md R25, R26). -/
structure TxUnit where
  state : TxState
  err : TxErr
  len : Byte
  cursor : Byte
  chk : Byte
  buf : Memory
deriving DecidableEq, Repr

/-- The ARQ unit: arq_state, arq_attempts, arq_timer (10_state.md R27). -/
structure ArqUnit where
  state : ArqState
  attempts : Byte
  timer : BitVec 16
deriving DecidableEq, Repr

/-- The input ports in one cycle (30_encoding.md R70). -/
structure CycleInput where
  rst : Bool
  cmdValid : Bool
  cmd : Word
  sinkReady : Bool
deriving DecidableEq, Repr

/-- The output ports in one cycle (30_encoding.md R70). -/
structure Outputs where
  respValid : Bool
  respIll : Bool
  resp : Word
  txoValid : Bool
  txoData : Byte
  txoFinal : Bool
deriving DecidableEq, Repr

/-- Every output 0: where a cycle starts (44_system.md R217). -/
def Outputs.zero : Outputs where
  respValid := false
  respIll := false
  resp := 0
  txoValid := false
  txoData := 0
  txoFinal := false

/-- One byte that the transmitter puts on txo (00_scope.md R12), with the source's isFinal. -/
structure Emission where
  data : Byte
  final : Bool
deriving DecidableEq, Repr

/-- The state of the engine: the record of 10_state.md R21, unit by unit, and nothing else. The parameters are not in
it. `cycle` (Machine/Run.lean) is the cycle function on this record. -/
structure EngineState where
  chkAcc : Byte
  ill : Bool
  rx : RxUnit
  tx : TxUnit
  arq : ArqUnit
deriving DecidableEq, Repr

/-- What one step of the model takes and gives: the state of the engine (`EngineState`), and beside it what is not state
in 10_state.md R21 and is the model's own to carry: the configuration (log 1), the input ports of the coming cycles
(log 2) and the output ports of the cycle just done (log 4). -/
structure State extends EngineState where
  cfg : Config
  inputs : List CycleInput
  out : Outputs
deriving DecidableEq, Repr

/-- The reasons the engine stops. An illegal command is none of them: it is a next state (44_system.md R213). Both stand
for an access at an index the spec says does not exist, and no run from reset meets either (20_memory.md R57 (d)). -/
inductive Fault where
  /-- The transmitter reads TXBUF at an index of MAX_PAYLOAD or above: raised by TX_NEXT and by the tick in SendData.
  Safe: the model stops where the spec gives no byte (log 7). -/
  | txbufRange
  /-- RX_READ reads RXBUF at an index of MAX_PAYLOAD or above that is below rx_len. Safe, as above (log 7). -/
  | rxbufRange
deriving DecidableEq, Repr

/-- What the model refuses to run. -/
inductive Refusal where
  /-- A command that has no meaning in this model: raised by no arm. Safe. -/
  | notModelled (mnemonic : String)
  /-- The configuration is no instance of the engine: STX = ETX, ACK = NAK or RETRY_BUDGET = 0. Raised by step. Safe:
  the spec says that a model refuses it (00_scope.md R5, 93_implementation_defined.md rows 2 and 4). -/
  | badConfig
deriving DecidableEq, Repr

/-- The engine right after a reset at power-on (10_state.md R42; 70_reset_and_hazards.md R260 to R262), with the
configuration values this spec takes, no cycle presented yet, and every output 0. -/
def State.reset : State where
  chkAcc := 0x00
  ill := false
  rx := { state := .waitStx, err := .none, len := 0x00, count := 0x00, chk := 0x00, buf := [] }
  tx := { state := .idle, err := .none, len := 0x00, cursor := 0x00, chk := 0x00, buf := [] }
  arq := { state := .idle, attempts := 0, timer := 0 }
  cfg := Config.specDefault
  inputs := []
  out := Outputs.zero

end Sys2Proof.Machine
end

