-- ==== Sys2Proof/Machine/Ops.lean ====
section
/-! DEFINITION. The named operations of the engine: the updates of State, the byte buffers (20_memory.md R50 to R57),
the checksum function (40_checksum.md R100), the response and the byte output (00_scope.md R11), raising
IllegalCommand and clearing it (44_system.md R212, R213), and reset (70_reset_and_hazards.md R260). -/

namespace Sys2Proof.Machine

/-! ### Updates of one field -/

def State.setChkAcc (s : State) (v : Byte) : State := { s with chkAcc := v }
def State.setIll (s : State) (v : Bool) : State := { s with ill := v }
def State.setRx (s : State) (u : RxUnit) : State := { s with rx := u }
def State.setTx (s : State) (u : TxUnit) : State := { s with tx := u }
def State.setArq (s : State) (u : ArqUnit) : State := { s with arq := u }
def State.setInputs (s : State) (l : List CycleInput) : State := { s with inputs := l }
def State.setOut (s : State) (o : Outputs) : State := { s with out := o }

/-! ### The byte buffers -/

/-- The byte written at index `i` since power-on; none where nothing has written it. -/
def Memory.load : Memory → Nat → Option Byte
  | [], _ => none
  | (k, v) :: m, i => if k = i then some v else Memory.load m i

/-- Writes byte `v` at index `i`, keeping the indices strictly rising. -/
def Memory.store : Memory → Nat → Byte → Memory
  | [], i, v => [(i, v)]
  | (k, x) :: m, i, v =>
    if i < k then (i, v) :: (k, x) :: m
    else if i = k then (i, v) :: m
    else (k, x) :: Memory.store m i v

/-- Every index listed is above `i`. -/
def Memory.above (i : Nat) : Memory → Bool
  | [] => true
  | (k, _) :: m => decide (i < k) && Memory.above i m

/-- The canonical form: the indices rise strictly. An unlisted index holds no written byte, so no entry repeats what an
unlisted index reads as (`Memory.load` answers none there). -/
def Memory.wf : Memory → Bool
  | [] => true
  | (k, _) :: m => Memory.above k m && Memory.wf m

/-- Every index listed exists in a buffer of `cap` bytes (20_memory.md R50). -/
def Memory.inside (cap : Nat) : Memory → Bool
  | [] => true
  | (k, _) :: m => decide (k < cap) && Memory.inside cap m

/-- What index `i` of a buffer holds: the byte written there, or, where nothing has written it since power-on, the free
value of that byte (70_reset_and_hazards.md R261; logs 5 and 6). -/
def Memory.byteAt (sp : Space) (m : Memory) (i : Nat) : Byte :=
  (Memory.load m i).getD (Config.powerOnByte sp i)

/-- The buffer that a space names. -/
def State.buffer (s : State) : Space → Memory
  | .txbuf => s.tx.buf
  | .rxbuf => s.rx.buf

/-- MemRead(space, i, 1) of 00_scope.md R11: one byte of a buffer, at an index 0 to MAX_PAYLOAD-1; none at an index that
does not exist (20_memory.md R50). -/
def memRead (sp : Space) (i : Nat) (s : State) : Option Byte :=
  if i < s.cfg.maxPayload.toNat then some (Memory.byteAt sp (s.buffer sp) i) else none

/-- The bytes 0 to n-1 of a buffer, in index order (00_scope.md R11, `buf[0..n)`). -/
def Memory.slice (sp : Space) (m : Memory) (n : Nat) : List Byte :=
  (List.range n).map (Memory.byteAt sp m)

/-! ### The checksum -/

/-- The checksum function: XOR-folds the seed with every element in order (40_checksum.md R100). -/
def fold : Byte → List Byte → Byte
  | acc, [] => acc
  | acc, b :: bs => fold (acc ^^^ b) bs

/-! ### The outputs of a command -/

/-- The outputs of a cycle whose legal command answers `v` and emits nothing (30_encoding.md R70, R78). -/
def Outputs.response (v : Word) : Outputs :=
  { Outputs.zero with respValid := true, resp := v }

/-- The outputs of a cycle whose command is illegal (44_system.md R213). -/
def Outputs.illegal : Outputs :=
  { Outputs.zero with respValid := true, respIll := true }

/-- `respond(v)` of 00_scope.md R11. -/
def State.respond (s : State) (v : Word) : State := s.setOut (Outputs.response v)

/-- Puts an emission on txo, where there is one (`emit(b, f)` of 00_scope.md R11). -/
def Outputs.emit (o : Outputs) : Option Emission → Outputs
  | none => o
  | some e => { o with txoValid := true, txoData := e.data, txoFinal := e.final }

/-- `emit(b, f)` by the cycle's command. -/
def State.emit (s : State) (e : Option Emission) : State := s.setOut (s.out.emit e)

/-- The tick's emission, where there is one: it takes txo only if the command left it free (44_system.md R217). -/
def State.emitAfterCommand (s : State) (e : Option Emission) : State :=
  if s.out.txoValid then s else s.emit e

/-! ### The one exception, and the way out of it -/

/-- `raise IllegalCommand` (44_system.md R213): ill is set, the response is 0 with resp_ill = 1, and nothing else is
written. Every check of a command comes before its writes, so `s` is the state the command found. -/
def raiseIllegal (s : State) : State := (s.setIll true).setOut Outputs.illegal

/-- What undoes it: the sticky flag goes back to 0 (44_system.md R212, 60_exceptions.md R236). -/
def clearIllegal (s : State) : State := s.setIll false

/-! ### Session resets and reset -/

/-- `rx_session_reset(s)` (41_receiver.md R131); RXBUF is not written. -/
def rxSessionReset (rx : RxUnit) : RxUnit :=
  { rx with state := .waitStx, err := .none, len := 0x00, count := 0x00, chk := 0x00 }

/-- `tx_session_reset(s)` (42_transmitter.md R150); TXBUF is not written. -/
def txSessionReset (tx : TxUnit) : TxUnit :=
  { tx with state := .idle, err := .none, len := 0x00, cursor := 0x00, chk := 0x00 }

/-- The ARQ registers at IDLE with no attempt and no time counted (43_arq.md R185). -/
def ArqUnit.initial : ArqUnit := { state := .idle, attempts := 0, timer := 0 }

/-- `reset_state(s)` of a cycle with rst = 1 (70_reset_and_hazards.md R260): TXBUF and RXBUF keep what they hold and
every output is 0. -/
def resetState (s : State) : State :=
  ((((((s.setChkAcc 0x00).setIll false).setRx (rxSessionReset s.rx)).setTx (txSessionReset s.tx)).setArq
    ArqUnit.initial).setOut Outputs.zero)

end Sys2Proof.Machine
end

