-- ==== Sys2Proof/Machine/Frame.lean ====
section
/-! DEFINITION. The frame on the wire: its checksum and its bytes (40_checksum.md R101, 30_encoding.md R80), and which
byte sequences are valid frames (40_checksum.md R107). -/

namespace Sys2Proof.Machine

/-- frame_chk(p) = fold(STX, [len(p)] ++ p) (40_checksum.md R101). -/
def frameChk (c : Config) (p : List Byte) : Byte := fold c.stx (BitVec.ofNat 8 p.length :: p)

/-- encode(p) = [STX, len(p)] ++ p ++ [frame_chk(p), ETX] (40_checksum.md R101). -/
def encodeFrame (c : Config) (p : List Byte) : List Byte :=
  [c.stx, BitVec.ofNat 8 p.length] ++ p ++ [frameChk c p, c.etx]

/-- A valid frame (40_checksum.md R107): STX, a LEN the capacity admits, LEN data bytes, the fold of LEN and data, ETX,
and nothing more. -/
def validFrame (c : Config) (f : List Byte) : Bool :=
  match f with
  | b0 :: len :: rest =>
    b0 = c.stx && decide (len.toNat ≤ c.maxPayload.toNat) && decide (f.length = len.toNat + 4) &&
      rest.drop len.toNat = [fold c.stx (len :: rest.take len.toNat), c.etx]
  | _ => false

end Sys2Proof.Machine
end

