-- ==== Sys2Proof/Machine/Flags.lean ====
section
/-! DEFINITION. The numeric codes of the unit states and error kinds (10_state.md R23, R25, R27), the derived statuses
(R29 to R31), and the conditions that make a command illegal in a state (44_system.md R214). -/

namespace Sys2Proof.Machine

/-- The 3-bit code of rx_state (10_state.md R23). -/
def RxState.code : RxState → BitVec 3
  | .waitStx => 0
  | .waitLen => 1
  | .readData => 2
  | .checkChk => 3
  | .waitEtx => 4
  | .done => 5
  | .error => 6

/-- The 2-bit code of rx_err (10_state.md R23). -/
def RxErr.code : RxErr → BitVec 2
  | .none => 0
  | .overflow => 1
  | .checksumMismatch => 2
  | .framingError => 3

/-- The 3-bit code of tx_state (10_state.md R25). -/
def TxState.code : TxState → BitVec 3
  | .idle => 0
  | .sendStx => 1
  | .sendLen => 2
  | .sendData => 3
  | .sendChk => 4
  | .sendEtx => 5
  | .done => 6
  | .error => 7

/-- The 2-bit code of tx_err (10_state.md R25). -/
def TxErr.code : TxErr → BitVec 2
  | .none => 0
  | .overflow => 1

/-- The 3-bit code of arq_state (10_state.md R27). -/
def ArqState.code : ArqState → BitVec 3
  | .idle => 0
  | .sending => 1
  | .waitAck => 2
  | .acked => 3
  | .exhausted => 4
  | .overflow => 5

/-- rx_status: Pending 0, Complete 1, Failed 2 (10_state.md R29). -/
def RxState.status : RxState → BitVec 2
  | .waitStx => 0
  | .waitLen => 0
  | .readData => 0
  | .checkChk => 0
  | .waitEtx => 0
  | .done => 1
  | .error => 2

/-- tx_status: Idle 0, Busy 1, Done 2, Failed 3 (10_state.md R30). -/
def TxState.status : TxState → BitVec 2
  | .idle => 0
  | .sendStx => 1
  | .sendLen => 1
  | .sendData => 1
  | .sendChk => 1
  | .sendEtx => 1
  | .done => 2
  | .error => 3

/-- tx_state ∈ {SendStx, SendLen, SendData, SendChk, SendEtx}: a frame is being emitted (42_transmitter.md R151). -/
def TxState.midFrame : TxState → Bool
  | .idle => false
  | .sendStx => true
  | .sendLen => true
  | .sendData => true
  | .sendChk => true
  | .sendEtx => true
  | .done => false
  | .error => false

/-- arq_busy: SENDING or WAIT_ACK (10_state.md R31). -/
def ArqState.busy : ArqState → Bool
  | .idle => false
  | .sending => true
  | .waitAck => true
  | .acked => false
  | .exhausted => false
  | .overflow => false

/-- arq_busy(s) (10_state.md R31). -/
def arqBusy (s : State) : Bool := s.arq.state.busy

/-- TX_LOAD A is illegal: the controller is busy, a frame is being emitted, or A ≥ MAX_PAYLOAD (42_transmitter.md R151,
44_system.md R214). -/
def loadIllegal (a : Index) (s : State) : Bool :=
  arqBusy s || s.tx.state.midFrame || decide (s.cfg.maxPayload.toNat ≤ a.toNat)

end Sys2Proof.Machine
end

