-- ==== Sys2Proof/Machine/Operands.lean ====
section
/-! DEFINITION. The register map that READ's index names (10_state.md R32 to R40) and the response words (30_encoding.md
R78, R79). Fields are concatenated with the most significant first, as in the spec's braces. -/

namespace Sys2Proof.Machine

/-- A byte as a response (`zext_32`). -/
def byteWord (b : Byte) : Word := b.setWidth 32

/-- GSTAT (10_state.md R33). -/
def gstat (s : State) : Word :=
  (0 : BitVec 30) ++ BitVec.ofBool (arqBusy s) ++ BitVec.ofBool s.ill

/-- RXSTAT (10_state.md R34). -/
def rxstat (rx : RxUnit) : Word :=
  rx.chk ++ rx.count ++ rx.len ++ (0 : BitVec 1) ++ rx.state.code ++ rx.err.code ++ rx.state.status

/-- TXSTAT (10_state.md R35). -/
def txstat (tx : TxUnit) : Word :=
  tx.chk ++ tx.cursor ++ tx.len ++ (0 : BitVec 1) ++ tx.state.code ++ tx.err.code ++ tx.state.status

/-- ARQSTAT (10_state.md R36). -/
def arqstat (arq : ArqUnit) : Word :=
  arq.timer ++ arq.attempts ++ (0 : BitVec 5) ++ arq.state.code

/-- PARAM0 (10_state.md R38). -/
def param0 (c : Config) : Word := c.nak ++ c.ack ++ c.etx ++ c.stx

/-- PARAM1 (10_state.md R39). -/
def param1 (c : Config) : Word :=
  (0 : BitVec 15) ++ BitVec.ofBool c.rxAutoReset ++ c.retryBudget ++ c.maxPayload

/-- PARAM2 (10_state.md R40). -/
def param2 (c : Config) : Word := (0 : BitVec 16) ++ c.ackTimeout

/-- REG[D] (10_state.md R32): the register that index D names, none above 0x07. -/
def register (d : Byte) (s : State) : Option Word :=
  match d.toNat with
  | 0 => some (gstat s)
  | 1 => some (rxstat s.rx)
  | 2 => some (txstat s.tx)
  | 3 => some (arqstat s.arq)
  | 4 => some (byteWord s.chkAcc)
  | 5 => some (param0 s.cfg)
  | 6 => some (param1 s.cfg)
  | 7 => some (param2 s.cfg)
  | _ => none

/-- The TXNEXT response word: what tx_next emitted and the status after it (30_encoding.md R79). -/
def txnextWord (tx : TxUnit) (e : Option Emission) : Word :=
  (0 : BitVec 18) ++ tx.err.code ++ tx.state.status ++ BitVec.ofBool (e.elim false Emission.final) ++
    BitVec.ofBool e.isSome ++ e.elim (0 : Byte) Emission.data

end Sys2Proof.Machine
end

