-- ==== Sys2Proof/Machine/Tx.lean ====
section
/-! DEFINITION. The transmitter: tx_begin and tx_next (42_transmitter.md R155, R157) and the TX commands. -/

namespace Sys2Proof.Machine

/-- `tx_begin(s, n)` (42_transmitter.md R155): a session reset, then Error(Overflow) when the whole 9-bit n exceeds
MAX_PAYLOAD, or SendStx with the checksum of TXBUF[0..n) computed at once. -/
def txBegin (c : Config) (n : Index) (tx : TxUnit) : TxUnit :=
  if c.maxPayload.toNat < n.toNat then { txSessionReset tx with state := .error, err := .overflow }
  else
    { txSessionReset tx with
      len := n.setWidth 8
      chk := fold c.stx (n.setWidth 8 :: Memory.slice .txbuf tx.buf n.toNat)
      cursor := 0x00
      state := .sendStx }

/-- `tx_next(s)` (42_transmitter.md R157 to R159): the session after the call and what it emitted. In SendData an index
that TXBUF does not have faults (log 7). -/
def txNext (c : Config) (tx : TxUnit) : Except Fault (TxUnit × Option Emission) :=
  match tx.state with
  | .sendStx => .ok ({ tx with state := .sendLen }, some { data := c.stx, final := false })
  | .sendLen =>
    .ok ({ tx with state := if tx.len = 0 then .sendChk else .sendData }, some { data := tx.len, final := false })
  | .sendData =>
    if tx.cursor.toNat < c.maxPayload.toNat then
      .ok ({ tx with
              cursor := tx.cursor + 1
              state := if tx.cursor + 1 = tx.len then .sendChk else .sendData },
           some { data := Memory.byteAt .txbuf tx.buf tx.cursor.toNat, final := false })
    else .error .txbufRange
  | .sendChk => .ok ({ tx with state := .sendEtx }, some { data := tx.chk, final := false })
  | .sendEtx => .ok ({ tx with state := .done }, some { data := c.etx, final := true })
  | .idle => .ok (tx, none)
  | .done => .ok (tx, none)
  | .error => .ok (tx, none)

/-- TX_LOAD (42_transmitter.md R151). -/
def execTxLoad (a : Index) (d : Byte) (s : State) : Host.Outcome State Fault Refusal :=
  if loadIllegal a s then .next (raiseIllegal s)
  else
    .next ((s.setTx { s.tx with buf := Memory.store s.tx.buf a.toNat d }).respond (txstat s.tx))

/-- TX_BEGIN (42_transmitter.md R152). -/
def execTxBegin (a : Index) (s : State) : Host.Outcome State Fault Refusal :=
  if arqBusy s then .next (raiseIllegal s)
  else .next ((s.setTx (txBegin s.cfg a s.tx)).respond (txstat (txBegin s.cfg a s.tx)))

/-- TX_NEXT (42_transmitter.md R153). It does not read sink_ready. -/
def execTxNext (s : State) : Host.Outcome State Fault Refusal :=
  if arqBusy s then .next (raiseIllegal s)
  else
    match txNext s.cfg s.tx with
    | .ok (tx, e) => .next (((s.setTx tx).respond (txnextWord tx e)).emit e)
    | .error f => .fault f

/-- TX_RESET (42_transmitter.md R154). -/
def execTxReset (s : State) : Host.Outcome State Fault Refusal :=
  if arqBusy s then .next (raiseIllegal s)
  else .next ((s.setTx (txSessionReset s.tx)).respond (txstat (txSessionReset s.tx)))

end Sys2Proof.Machine
end

