-- ==== Sys2Proof/Machine/Arq.lean ====
section
/-! DEFINITION. The ARQ controller: the retry step (43_arq.md R183), its commands, and the tick (R189 to R191). -/

namespace Sys2Proof.Machine

/-- `nak_event(s)`: the step on a NAK and on a timeout (43_arq.md R183). -/
def nakEvent (s : State) : State :=
  if (s.arq.attempts + 1).toNat < s.cfg.retryBudget.toNat then
    (s.setTx (txBegin s.cfg (s.tx.len.setWidth 9) s.tx)).setArq
      { s.arq with attempts := s.arq.attempts + 1, state := .sending }
  else s.setArq { s.arq with attempts := s.arq.attempts + 1, state := .exhausted }

/-- The ARQ registers after ARQ_SEND, given the transmitter's state after its begin (43_arq.md R182). -/
def arqAfterSend (tx : TxUnit) : ArqUnit :=
  { state := if tx.state = .error then .overflow else .sending, attempts := 0, timer := 0 }

/-- ARQ_SEND (43_arq.md R182). Its first byte comes from the same cycle's tick. -/
def execArqSend (a : Index) (s : State) : Host.Outcome State Fault Refusal :=
  if arqBusy s then .next (raiseIllegal s)
  else
    .next (((s.setTx (txBegin s.cfg a s.tx)).setArq (arqAfterSend (txBegin s.cfg a s.tx))).respond
      (arqstat (arqAfterSend (txBegin s.cfg a s.tx))))

/-- The state after the acknowledgement byte `d`, before the response (43_arq.md R184): only in WAIT_ACK, and only ACK
or NAK, count. -/
def acknowledge (d : Byte) (s : State) : State :=
  if s.arq.state = .waitAck then
    if d = s.cfg.ack then s.setArq { s.arq with state := .acked }
    else if d = s.cfg.nak then nakEvent s
    else s
  else s

/-- ACK (43_arq.md R184). -/
def execAck (d : Byte) (s : State) : Host.Outcome State Fault Refusal :=
  .next ((acknowledge d s).respond (arqstat (acknowledge d s).arq))

/-- ARQ_ABORT (43_arq.md R185): the TX session is reset only if the controller owned it. -/
def execArqAbort (s : State) : Host.Outcome State Fault Refusal :=
  .next (((s.setTx (if arqBusy s then txSessionReset s.tx else s.tx)).setArq ArqUnit.initial).respond
    (arqstat ArqUnit.initial))

/-- The ARQ registers after an emission of the tick: WAIT_ACK with the timer cleared when the byte was the frame's last
(43_arq.md R189). -/
def arqAfterEmission (arq : ArqUnit) (e : Option Emission) : ArqUnit :=
  if e.elim false Emission.final then { arq with state := .waitAck, timer := 0 } else arq

/-- The tick in SENDING (43_arq.md R189): one byte when the sink is ready, nothing otherwise. -/
def tickSending (ready : Bool) (s : State) : Host.Outcome State Fault Refusal :=
  if ready then
    match txNext s.cfg s.tx with
    | .ok (tx, e) => .next (((s.setTx tx).setArq (arqAfterEmission s.arq e)).emitAfterCommand e)
    | .error f => .fault f
  else .next s

/-- The tick in WAIT_ACK (43_arq.md R190): counts, and takes the timeout as a NAK; nothing with ACK_TIMEOUT = 0. -/
def tickWaitAck (s : State) : State :=
  if s.cfg.ackTimeout = 0 then s
  else if s.arq.timer + 1 = s.cfg.ackTimeout then
    nakEvent (s.setArq { s.arq with timer := s.arq.timer + 1 })
  else s.setArq { s.arq with timer := s.arq.timer + 1 }

/-- `arq_tick(s, sink_ready)` (44_system.md R216; 43_arq.md R189 to R191). -/
def arqTick (ready : Bool) (s : State) : Host.Outcome State Fault Refusal :=
  match s.arq.state with
  | .idle => .next s
  | .sending => tickSending ready s
  | .waitAck => .next (tickWaitAck s)
  | .acked => .next s
  | .exhausted => .next s
  | .overflow => .next s

end Sys2Proof.Machine
end

