-- ==== Sys2Proof/Machine/Cycle.lean ====
section
/-! DEFINITION. One clock cycle around its command (44_system.md R217): which input ports it sees, what it presents to
the engine, how it starts, and how it ends with the tick. -/

namespace Sys2Proof.Machine

/-- The input ports of a cycle for which the host has presented nothing: no reset, no command, and the sink ready
(30_encoding.md R84's default; log 3). -/
def CycleInput.idle : CycleInput := { rst := false, cmdValid := false, cmd := 0, sinkReady := true }

/-- The input ports of the next cycle. -/
def State.port (s : State) : CycleInput := s.inputs.headD CycleInput.idle

/-- The cycle starts: its inputs are taken and every output is 0 (44_system.md R217). -/
def State.startCycle (s : State) : State := (s.setInputs s.inputs.tail).setOut Outputs.zero

/-- What a cycle asks of the engine. -/
inductive Presented where
  /-- the configuration is no instance of the engine (00_scope.md R5) -/
  | badConfig
  /-- rst = 1 -/
  | reset
  /-- rst = 0 and cmd_valid = 0 -/
  | idle
  /-- a word that decodes to Illegal -/
  | illegal
  /-- a word that decodes to a command -/
  | command (i : Instr)
deriving DecidableEq, Repr

/-- What the next cycle asks: rst beats everything, and cmd is ignored when cmd_valid = 0 (60_exceptions.md R234,
30_encoding.md R70). -/
def State.presented (s : State) : Presented :=
  if !s.cfg.wf then .badConfig
  else if s.port.rst then .reset
  else if !s.port.cmdValid then .idle
  else
    match decode s.port.cmd with
    | .command i => .command i
    | .illegal _ => .illegal

/-- The end of a cycle: the tick, on the state the command left (44_system.md R217). -/
def finishCycle (ready : Bool) (o : Host.Outcome State Fault Refusal) : Host.Outcome State Fault Refusal :=
  match o with
  | .next s => arqTick ready s
  | .fault f => .fault f
  | .refused r => .refused r

/-- The coming cycle presents the command word `w`: in that cycle rst = 0 and cmd_valid = 1; its sink_ready and the
cycles after it are as they were. -/
def State.presentWord (s : State) (w : Word) : State :=
  s.setInputs ({ s.port with rst := false, cmdValid := true, cmd := w } :: s.inputs.tail)

end Sys2Proof.Machine
end

