-- ==== Sys2Proof/Machine/Chk.lean ====
section
/-! DEFINITION. The CHK commands (40_checksum.md section 2). -/

namespace Sys2Proof.Machine

/-- CHK_SEED (40_checksum.md R102). -/
def execChkSeed (d : Byte) (s : State) : Host.Outcome State Fault Refusal :=
  .next ((s.setChkAcc d).respond (byteWord d))

/-- CHK_FOLD (40_checksum.md R103). -/
def execChkFold (d : Byte) (s : State) : Host.Outcome State Fault Refusal :=
  .next ((s.setChkAcc (s.chkAcc ^^^ d)).respond (byteWord (s.chkAcc ^^^ d)))

end Sys2Proof.Machine
end

