-- ==== Sys2Proof/Machine/Rx.lean ====
section
/-! DEFINITION. The receiver: its step by state (41_receiver.md R120 to R127) and the RX commands. -/

namespace Sys2Proof.Machine

/-- RX_FEED in WaitStx (41_receiver.md R121). -/
def rxFeedWaitStx (c : Config) (b : Byte) (rx : RxUnit) : RxUnit :=
  if b = c.stx then { rx with chk := c.stx, len := 0x00, count := 0x00, state := .waitLen } else rx

/-- RX_FEED in WaitLen (41_receiver.md R124). -/
def rxFeedWaitLen (c : Config) (b : Byte) (rx : RxUnit) : RxUnit :=
  if c.maxPayload.toNat < b.toNat then
    { rx with len := b, chk := rx.chk ^^^ b, state := .error, err := .overflow }
  else if b = 0 then { rx with len := b, chk := rx.chk ^^^ b, state := .checkChk }
  else { rx with len := b, chk := rx.chk ^^^ b, state := .readData }

/-- RX_FEED in ReadData, with the bound checked against both the length and the capacity (41_receiver.md R125). -/
def rxFeedReadData (c : Config) (b : Byte) (rx : RxUnit) : RxUnit :=
  if rx.len.toNat ≤ rx.count.toNat ∨ c.maxPayload.toNat ≤ rx.count.toNat then
    { rx with state := .error, err := .overflow }
  else
    { rx with
      buf := Memory.store rx.buf rx.count.toNat b
      chk := rx.chk ^^^ b
      count := rx.count + 1
      state := if rx.count + 1 = rx.len then .checkChk else rx.state }

/-- RX_FEED in CheckChk (41_receiver.md R126). -/
def rxFeedCheckChk (b : Byte) (rx : RxUnit) : RxUnit :=
  if b = rx.chk then { rx with state := .waitEtx } else { rx with state := .error, err := .checksumMismatch }

/-- RX_FEED in WaitEtx (41_receiver.md R127). -/
def rxFeedWaitEtx (c : Config) (b : Byte) (rx : RxUnit) : RxUnit :=
  if b = c.etx then { rx with state := .done } else { rx with state := .error, err := .framingError }

/-- RX_FEED in Done or Error: nothing, or under RX_AUTO_RESET a session reset and then the byte as in WaitStx
(41_receiver.md R122, R123). -/
def rxFeedTerminal (c : Config) (b : Byte) (rx : RxUnit) : RxUnit :=
  if c.rxAutoReset then rxFeedWaitStx c b (rxSessionReset rx) else rx

/-- `rx_feed(s, b)`: the receiver's step, dispatched on rx_state (41_receiver.md R120). -/
def rxFeed (c : Config) (b : Byte) (rx : RxUnit) : RxUnit :=
  match rx.state with
  | .waitStx => rxFeedWaitStx c b rx
  | .waitLen => rxFeedWaitLen c b rx
  | .readData => rxFeedReadData c b rx
  | .checkChk => rxFeedCheckChk b rx
  | .waitEtx => rxFeedWaitEtx c b rx
  | .done => rxFeedTerminal c b rx
  | .error => rxFeedTerminal c b rx

/-- RX_FEED (41_receiver.md R120). -/
def execRxFeed (d : Byte) (s : State) : Host.Outcome State Fault Refusal :=
  .next ((s.setRx (rxFeed s.cfg d s.rx)).respond (rxstat (rxFeed s.cfg d s.rx)))

/-- RX_RESET (41_receiver.md R131). -/
def execRxReset (s : State) : Host.Outcome State Fault Refusal :=
  .next ((s.setRx (rxSessionReset s.rx)).respond (rxstat (rxSessionReset s.rx)))

/-- RX_READ (41_receiver.md R132): a byte of the packet in Done below rx_len, 0x00 otherwise. -/
def execRxRead (a : Index) (s : State) : Host.Outcome State Fault Refusal :=
  if s.rx.state = .done ∧ a.toNat < s.rx.len.toNat then
    match memRead .rxbuf a.toNat s with
    | some v => .next (s.respond (byteWord v))
    | none => .fault .rxbufRange
  else .next (s.respond 0)

end Sys2Proof.Machine
end

