-- ==== Sys2Proof/Machine/Sys.lean ====
section
/-! DEFINITION. The system commands and the reserved operation (44_system.md sections 1 and 2). -/

namespace Sys2Proof.Machine

/-- NOP (44_system.md R210). -/
def execNop (s : State) : Host.Outcome State Fault Refusal := .next (s.respond 0)

/-- READ (44_system.md R211): the register that D names; above 0x07 the command is illegal. -/
def execRead (d : Byte) (s : State) : Host.Outcome State Fault Refusal :=
  match register d s with
  | some v => .next (s.respond v)
  | none => .next (raiseIllegal s)

/-- CLR_ILL (44_system.md R212). -/
def execClrIll (s : State) : Host.Outcome State Fault Refusal := .next ((clearIllegal s).respond 0)

/-- The reserved operation OP = 0xF: always illegal, whatever the 28 bits are (30_encoding.md R77, 44_system.md R213). -/
def execReserved (_x : BitVec 28) (s : State) : Host.Outcome State Fault Refusal := .next (raiseIllegal s)

end Sys2Proof.Machine
end

