-- ==== Sys2Proof/Machine/Dispatch.lean ====
section
/-! DEFINITION. What each command does to the state it finds (44_system.md R214, R215): its effect, or the one exception
where the state makes it illegal. The cycle's tick is not part of it. -/

namespace Sys2Proof.Machine

def exec (i : Instr) (s : State) : Host.Outcome State Fault Refusal :=
  match i with
  | .nop => Sys2Proof.Machine.execNop s
  | .chkSeed d => Sys2Proof.Machine.execChkSeed d s
  | .chkFold d => Sys2Proof.Machine.execChkFold d s
  | .rxFeed d => Sys2Proof.Machine.execRxFeed d s
  | .rxReset => Sys2Proof.Machine.execRxReset s
  | .rxRead a => Sys2Proof.Machine.execRxRead a s
  | .txLoad a d => Sys2Proof.Machine.execTxLoad a d s
  | .txBegin a => Sys2Proof.Machine.execTxBegin a s
  | .txNext => Sys2Proof.Machine.execTxNext s
  | .txReset => Sys2Proof.Machine.execTxReset s
  | .arqSend a => Sys2Proof.Machine.execArqSend a s
  | .ack d => Sys2Proof.Machine.execAck d s
  | .arqAbort => Sys2Proof.Machine.execArqAbort s
  | .read d => Sys2Proof.Machine.execRead d s
  | .clrIll => Sys2Proof.Machine.execClrIll s
  | .reserved x => Sys2Proof.Machine.execReserved x s

end Sys2Proof.Machine
end

