-- ==== Sys2Proof/Machine/Step.lean ====
section
/-! DEFINITION. One step of the engine: one clock cycle (44_system.md R217). -/

namespace Sys2Proof.Machine

/-- The cycle function (44_system.md R217), on the input ports that `inputs` lists next. -/
def step (s : State) : Host.Outcome State Fault Refusal :=
  match s.presented with
  | .badConfig => .refused .badConfig
  | .reset => .next (resetState s.startCycle)
  | .idle => finishCycle s.port.sinkReady (.next s.startCycle)
  | .illegal => finishCycle s.port.sinkReady (.next (raiseIllegal s.startCycle))
  | .command i => finishCycle s.port.sinkReady (exec i s.startCycle)

/-- `s` with the coming cycle presenting the command word whose bits are `w`, every bit above `nbits` zero. -/
def State.withFetchWord (s : State) (nbits w : Nat) : State :=
  s.presentWord (BitVec.ofNat 32 (w % 2 ^ nbits))

end Sys2Proof.Machine
end

