-- ==== Sys2Proof/Machine/Assembler.lean ====
section
/-! DEFINITION. The assembler's syntax and pseudo-commands (30_encoding.md R84, R85): from the lines of a program to
the input ports of its cycles. The engine never sees the text; a host that assembles presents the words. -/

namespace Sys2Proof.Machine

/-- The text of a line without its comment (R84: `;` starts one). -/
def asmStripComment : List Char → List Char
  | [] => []
  | c :: cs => if c = ';' then [] else c :: asmStripComment cs

/-- Without the blanks in front. That a blank is a space or a tab is the model's choice (log 20). -/
def asmTrimLeft : List Char → List Char
  | [] => []
  | c :: cs => if c = ' ' ∨ c = '\t' then asmTrimLeft cs else c :: cs

/-- Without the blanks at both ends. -/
def asmTrim (cs : List Char) : List Char := (asmTrimLeft (asmTrimLeft cs).reverse).reverse

/-- The first word of a line and the text after it. -/
def asmFirstWord : List Char → List Char × List Char
  | [] => ([], [])
  | c :: cs => if c = ' ' ∨ c = '\t' then ([], cs) else (c :: (asmFirstWord cs).1, (asmFirstWord cs).2)

/-- The pieces of a text between its commas. -/
def asmSplitCommas : List Char → List (List Char)
  | [] => [[]]
  | c :: cs =>
    if c = ',' then [] :: asmSplitCommas cs
    else
      match asmSplitCommas cs with
      | [] => [[c]]
      | p :: ps => (c :: p) :: ps

/-- The value of a digit below 16, a letter in either case (the model's choice, log 20). -/
def asmDigit (c : Char) : Option Nat :=
  let n := c.toNat
  if 48 ≤ n ∧ n ≤ 57 then some (n - 48)
  else if 65 ≤ n ∧ n ≤ 70 then some (n - 55)
  else if 97 ≤ n ∧ n ≤ 102 then some (n - 87)
  else none

/-- The digits of a number in a base, on from `acc`. -/
def asmDigits (base acc : Nat) : List Char → Option Nat
  | [] => some acc
  | c :: cs =>
    match asmDigit c with
    | some d => if d < base then asmDigits base (acc * base + d) cs else none
    | none => none

/-- A number: decimal, or hexadecimal with a `0x` prefix (R84). Leading zeros are allowed, and no digit at all is no
number (the model's choice, log 20). -/
def asmNumber : List Char → Option Nat
  | [] => none
  | '0' :: 'x' :: c :: cs => asmDigits 16 0 (c :: cs)
  | c :: cs => asmDigits 10 0 (c :: cs)

/-- Every element's value, or none. -/
def asmNumbers : List (List Char) → Option (List Nat)
  | [] => some []
  | p :: ps =>
    match asmNumber (asmTrim p), asmNumbers ps with
    | some n, some ns => some (n :: ns)
    | _, _ => none

/-- The operands of a line: none, or numbers separated by commas (R84). A missing number beside a comma is refused (the
model's choice, log 20). -/
def asmOperands (cs : List Char) : Option (List Nat) :=
  if asmTrim cs = [] then some [] else asmNumbers (asmSplitCommas cs)

/-- A byte operand; refused above 255 (R84). -/
def asmByte (n : Nat) : Option Byte := if n ≤ 255 then some (BitVec.ofNat 8 n) else none

/-- A 9-bit operand; refused above 511 (R84). -/
def asmIndex (n : Nat) : Option Index := if n ≤ 511 then some (BitVec.ofNat 9 n) else none

/-- Byte operands, each refused above 255. -/
def asmBytes : List Nat → Option (List Byte)
  | [] => some []
  | n :: ns =>
    match asmByte n, asmBytes ns with
    | some b, some bs => some (b :: bs)
    | _, _ => none

/-- A form with no operand. Here and in the other forms a wrong number of operands is refused (the model's choice, log
20). -/
def asmNone (i : Instr) : List Nat → Option (List Instr)
  | [] => some [i]
  | _ => none

/-- A form with the operand D. -/
def asmD (f : Byte → Instr) : List Nat → Option (List Instr)
  | [d] => (asmByte d).map fun b => [f b]
  | _ => none

/-- A form with the operand A. -/
def asmA (f : Index → Instr) : List Nat → Option (List Instr)
  | [a] => (asmIndex a).map fun x => [f x]
  | _ => none

/-- The form with the operands A and D. -/
def asmAD (f : Index → Byte → Instr) : List Nat → Option (List Instr)
  | [a, d] =>
    match asmIndex a, asmByte d with
    | some x, some b => some [f x b]
    | _, _ => none
  | _ => none

/-- READ d, refused above 7 (R84). -/
def asmRead : List Nat → Option (List Instr)
  | [d] => if d ≤ 7 then (asmByte d).map fun b => [.read b] else none
  | _ => none

/-- CHECKSUM s, b0, ...: CHK_SEED s and a CHK_FOLD for each byte (R85). -/
def expandChecksum (seed : Byte) (bs : List Byte) : List Instr := .chkSeed seed :: bs.map .chkFold

/-- LOADP a, b0, ...: TX_LOADs from index a on; none where an index exceeds 511 (R85). -/
def expandLoadp : Nat → List Byte → Option (List Instr)
  | _, [] => some []
  | a, b :: bs =>
    match asmIndex a, expandLoadp (a + 1) bs with
    | some x, some is => some (.txLoad x b :: is)
    | _, _ => none

/-- SENDFRAME n: TX_BEGIN n and a TX_NEXT for each of the n + 4 frame bytes (R85). -/
def expandSendframe (n : Index) : List Instr := .txBegin n :: List.replicate (n.toNat + 4) .txNext

/-- FEED b0, ...: an RX_FEED for each byte (R85). -/
def expandFeed (bs : List Byte) : List Instr := bs.map .rxFeed

/-- CHECKSUM's operands. -/
def asmChecksum : List Nat → Option (List Instr)
  | [] => none
  | s :: ns =>
    match asmByte s, asmBytes ns with
    | some b, some bs => some (expandChecksum b bs)
    | _, _ => none

/-- LOADP's operands. With no byte after the index it is no command (the model's choice, log 13). -/
def asmLoadp : List Nat → Option (List Instr)
  | [] => none
  | a :: ns => (asmBytes ns).bind (expandLoadp a)

/-- SENDFRAME's operand. -/
def asmSendframe : List Nat → Option (List Instr)
  | [n] => (asmIndex n).map expandSendframe
  | _ => none

/-- FEED's operands. With no byte it is no command (the model's choice, log 13). -/
def asmFeed (ns : List Nat) : Option (List Instr) := (asmBytes ns).map expandFeed

/-- The mnemonics and pseudo-commands, each with its form (R84, R85). -/
def asmTable : List (String × (List Nat → Option (List Instr))) :=
  [("NOP", asmNone .nop), ("CHK_SEED", asmD .chkSeed), ("CHK_FOLD", asmD .chkFold), ("RX_FEED", asmD .rxFeed),
   ("RX_RESET", asmNone .rxReset), ("RX_READ", asmA .rxRead), ("TX_LOAD", asmAD .txLoad), ("TX_BEGIN", asmA .txBegin)] ++
  [("TX_NEXT", asmNone .txNext), ("TX_RESET", asmNone .txReset), ("ARQ_SEND", asmA .arqSend), ("ACK", asmD .ack),
   ("ARQ_ABORT", asmNone .arqAbort), ("READ", asmRead), ("CLR_ILL", asmNone .clrIll)] ++
  [("CHECKSUM", asmChecksum), ("LOADP", asmLoadp), ("SENDFRAME", asmSendframe), ("FEED", asmFeed)]

/-- The commands that a mnemonic stands for with its operands; none for any other name, and a mnemonic is in capitals as
the spec writes it (the model's choice, log 20). -/
def asmLookup (name : List Char) (ops : List Nat) :
    List (String × (List Nat → Option (List Instr))) → Option (List Instr)
  | [] => none
  | (m, f) :: t => if m.toList = name then f ops else asmLookup name ops t

/-- What one line asks for. -/
inductive AsmLine where
  /-- commands, one a cycle -/
  | commands (is : List Instr)
  /-- `IDLE` and `IDLE k`: cycles with cmd_valid = 0 -/
  | idle (k : Nat)
  /-- `SINK 0` and `SINK 1`: sink_ready from this cycle on -/
  | sink (ready : Bool)
deriving DecidableEq, Repr

/-- A line without its comment and its `@k`; none where the assembler refuses it. A line with no command left (blank, a
comment only, a bare `@k`) is accepted and asks for nothing, and `IDLE 0` is no cycle: R84 gives these no meaning, and
that they are taken so is the model's choice (log 20). -/
def asmBody (cs : List Char) : Option AsmLine :=
  if asmTrim cs = [] then some (.commands [])
  else
    let name := (asmFirstWord (asmTrim cs)).1
    match asmOperands (asmFirstWord (asmTrim cs)).2 with
    | none => none
    | some ops =>
      if name = "IDLE".toList then
        match ops with
        | [] => some (.idle 1)
        | [k] => some (.idle k)
        | _ => none
      else if name = "SINK".toList then
        match ops with
        | [0] => some (.sink false)
        | [1] => some (.sink true)
        | _ => none
      else (asmLookup name ops asmTable).map .commands

/-- A line: its cycle number where it has an `@k` prefix, and what it asks for. The number stands next to the `@`; a bare
`@k` is a line of no command in cycle k (the model's choice, log 20). -/
def asmLine (line : String) : Option (Option Nat × AsmLine) :=
  match asmTrim (asmStripComment line.toList) with
  | '@' :: cs =>
    match asmNumber (asmFirstWord cs).1, asmBody (asmFirstWord cs).2 with
    | some k, some l => some (some k, l)
    | _, _ => none
  | cs => (asmBody cs).map fun l => (none, l)

/-- The input ports of the cycles of a line. -/
def asmCycles (ready : Bool) : AsmLine → List CycleInput
  | .commands is => is.map fun i => { rst := false, cmdValid := true, cmd := encode i, sinkReady := ready }
  | .idle k => List.replicate k { CycleInput.idle with sinkReady := ready }
  | .sink _ => []

/-- The level of sink_ready after a line. -/
def asmSink (ready : Bool) : AsmLine → Bool
  | .commands _ => ready
  | .idle _ => ready
  | .sink r => r

/-- The cycles of a program, from cycle `k` on, with sink_ready at `ready`. A line `@n` stands in cycle n (R84). That the
cycles between are idle, and that a line for a cycle that has passed is refused, is the model's choice (log 13); so is that
a bare `@n` fills the cycles up to n in the same way, and that a line with no command takes no cycle (log 20). -/
def asmProgram (k : Nat) (ready : Bool) : List String → Option (List CycleInput)
  | [] => some []
  | line :: rest =>
    match asmLine line with
    | none => none
    | some (at?, l) =>
      let here := at?.getD k
      if here < k then none
      else
        let own := List.replicate (here - k) { CycleInput.idle with sinkReady := ready } ++ asmCycles (asmSink ready l) l
        (asmProgram (k + own.length) (asmSink ready l) rest).map fun r => own ++ r

/-- A program's cycles; sink_ready is 1 until a SINK line says otherwise (R84). -/
def assemble (lines : List String) : Option (List CycleInput) := asmProgram 0 true lines

end Sys2Proof.Machine
end

