-- ==== Sys2Proof/Machine/Run.lean ====
section
/-! DEFINITION. The cycle function on the spec's own state record, and several commands, or several cycles, one after the
other, with the outputs of each: the sequences that the spec's properties speak of (41_receiver.md R134,
42_transmitter.md R160, 43_arq.md R188). -/

namespace Sys2Proof.Machine

/-- The packet a state holds: RXBUF[0..rx_len) and rx_chk while rx_state = Done (41_receiver.md R133). -/
def State.packet (s : State) : Option (List Byte × Byte) :=
  if s.rx.state = .done then some (Memory.slice .rxbuf s.rx.buf s.rx.len.toNat, s.rx.chk) else none

/-- An outcome with its next state put through `f`. -/
def onNext {α β : Type} (f : α → β) : Host.Outcome α Fault Refusal → Host.Outcome β Fault Refusal
  | .next s => .next (f s)
  | .fault r => .fault r
  | .refused r => .refused r

/-- The cycle function on the state of 10_state.md R21 alone: an instance's parameters, the input ports of one cycle and
the state give the next state and the output ports (30_encoding.md R71, 44_system.md R217). `step_eq_cycle` says that
`step` is this function on each cycle's inputs, and that nothing else a `State` carries has a part in it. -/
def cycle (c : Config) (p : CycleInput) (e : EngineState) : Host.Outcome (EngineState × Outputs) Fault Refusal :=
  onNext (fun t => (t.toEngineState, t.out))
    (step { toEngineState := e, cfg := c, inputs := [p], out := Outputs.zero })

/-- Commands one after the other, with no tick between them: the outputs of each and the state at the end; none where
one of them stops. -/
def execAll : List Instr → State → Option (List Outputs × State)
  | [], s => some ([], s)
  | i :: is, s =>
    match exec i s with
    | .next t => (execAll is t).map fun r => (t.out :: r.1, r.2)
    | .fault _ => none
    | .refused _ => none

/-- `k` cycles: the outputs of each and the state at the end; none where one of them stops. -/
def cycles : Nat → State → Option (List Outputs × State)
  | 0, s => some ([], s)
  | k + 1, s =>
    match step s with
    | .next t => (cycles k t).map fun r => (t.out :: r.1, r.2)
    | .fault _ => none
    | .refused _ => none

/-- The bytes on txo in a run of cycles, each with its txo_final. -/
def txoTrace : List Outputs → List (Byte × Bool)
  | [] => []
  | o :: os => if o.txoValid then (o.txoData, o.txoFinal) :: txoTrace os else txoTrace os

/-- The cycles in which the host presents a command word, with the sink ready. -/
def commandCycle (i : Instr) : CycleInput :=
  { rst := false, cmdValid := true, cmd := encode i, sinkReady := true }

end Sys2Proof.Machine
end

