-- ==== Sys2Proof/Safety.lean ====
section
/-! DEFINITION. What holds in every state that a run from reset reaches (10_state.md R43), field by field, strengthened
where the spec's list alone is not kept by a step; and which states a step cannot leave by a fault. -/

namespace Sys2Proof.Safety

open Sys2Proof.Machine

/-- The receiver's part of 10_state.md R43, and the canonical form of RXBUF. -/
structure RxInv (c : Config) (rx : RxUnit) : Prop where
  waitStx : rx.state = .waitStx → rx.len = 0 ∧ rx.count = 0 ∧ rx.chk = 0
  waitLen : rx.state = .waitLen → rx.count = 0 ∧ rx.chk = c.stx
  readData : rx.state = .readData →
    rx.count.toNat < rx.len.toNat ∧ rx.len.toNat ≤ c.maxPayload.toNat ∧
      rx.chk = fold c.stx (rx.len :: Memory.slice .rxbuf rx.buf rx.count.toNat)
  body : rx.state = .checkChk ∨ rx.state = .waitEtx ∨ rx.state = .done →
    rx.count = rx.len ∧ rx.len.toNat ≤ c.maxPayload.toNat ∧
      rx.chk = fold c.stx (rx.len :: Memory.slice .rxbuf rx.buf rx.len.toNat)
  err : rx.err ≠ .none ↔ rx.state = .error
  bufWf : Memory.wf rx.buf = true
  bufInside : Memory.inside c.maxPayload.toNat rx.buf = true

/-- The transmitter's part of 10_state.md R43, and the canonical form of TXBUF. `doneLen` is not in R43's list: a NAK
restarts the frame of tx_len, and without it the restart could overflow. -/
structure TxInv (c : Config) (tx : TxUnit) : Prop where
  rest : tx.state = .idle ∨ tx.state = .error → tx.len = 0 ∧ tx.cursor = 0 ∧ tx.chk = 0
  err : tx.err = .overflow ↔ tx.state = .error
  head : tx.state = .sendStx ∨ tx.state = .sendLen → tx.cursor = 0
  data : tx.state = .sendData → tx.cursor.toNat < tx.len.toNat
  tail : tx.state = .sendChk ∨ tx.state = .sendEtx ∨ tx.state = .done → tx.cursor = tx.len
  frame : tx.state.midFrame = true →
    tx.len.toNat ≤ c.maxPayload.toNat ∧
      tx.chk = fold c.stx (tx.len :: Memory.slice .txbuf tx.buf tx.len.toNat)
  doneLen : tx.state = .done → tx.len.toNat ≤ c.maxPayload.toNat
  bufWf : Memory.wf tx.buf = true
  bufInside : Memory.inside c.maxPayload.toNat tx.buf = true

/-- The ARQ controller's part of 10_state.md R43. `waiting` is not in R43's list: a wait that has reached ACK_TIMEOUT is
over, and without it the next tick would pass the bound. -/
structure ArqInv (s : State) : Prop where
  sending : s.arq.state = .sending → s.tx.state.midFrame = true
  waitAck : s.arq.state = .waitAck → s.tx.state = .done
  busy : arqBusy s = true → s.arq.attempts.toNat < s.cfg.retryBudget.toNat
  exhausted : s.arq.state = .exhausted → s.arq.attempts = s.cfg.retryBudget
  timer : s.arq.timer.toNat ≤ s.cfg.ackTimeout.toNat
  waiting : s.arq.state = .waitAck → s.cfg.ackTimeout ≠ 0 → s.arq.timer.toNat < s.cfg.ackTimeout.toNat

/-- What holds in every reachable state (10_state.md R43). -/
structure Inv (s : State) : Prop where
  cfg : s.cfg.wf = true
  rx : RxInv s.cfg s.rx
  tx : TxInv s.cfg s.tx
  arq : ArqInv s

/-- The next step answers a next state. -/
def Runs (s : State) : Prop := ∃ t, step s = .next t

end Sys2Proof.Safety
end

