-- ==== Sys2Proof/Certificates/Slice0/Obligations.lean ====
section
/-! DEFINITION. The statements for the provers. Each docstring names the rule of spec/ it formalises. The outcome of a
command is written as a whole next state, so that a statement says what the command leaves unchanged as well. -/

open Sys2Proof
open Sys2Proof.Machine
open Sys2Proof.Safety

/-! ### Decoding and encoding -/

/-- 30_encoding.md R75, R76: every command the encoding admits decodes back to itself, with every operand. That a word
with OP = 0xF counts here as a command, the table's reserved row, is the model's choice (log 11): R76 answers Illegal for
it at decode. -/
def Obligations.EncodedCommandDecodesToItself : Prop :=
  ∀ i : Instr, i.wf = true → decode (encode i) = .command i

/-- 30_encoding.md R75, R76: a word that decodes to a command is the encoding of that command and of no other. The words
with OP = 0xF count here as the commands of the reserved row, which is the model's choice (log 11). -/
def Obligations.DecodedWordEncodesBack : Prop :=
  ∀ (w : Word) (i : Instr), decode w = .command i → i.wf = true ∧ encode i = w

/-- 30_encoding.md R75: the match and mask of each row select the words of that command, and its operands are the A and
D fields. READ has the extra condition D ≤ 0x07 (R76). That a word with OP = 0xF decodes to the reserved row, and not to
Illegal as in R76, is the model's choice (log 11). -/
def Obligations.MatchAndMaskSelectTheCommand : Prop :=
  ∀ w : Word,
    (w &&& 0xFFFFFFFF = 0x00000000 ↔ decode w = .command .nop) ∧
    (w &&& 0xFFFFFF00 = 0x10000000 ↔ decode w = .command (.chkSeed (w.extractLsb' 0 8))) ∧
    (w &&& 0xFFFFFF00 = 0x20000000 ↔ decode w = .command (.chkFold (w.extractLsb' 0 8))) ∧
    (w &&& 0xFFFFFF00 = 0x30000000 ↔ decode w = .command (.rxFeed (w.extractLsb' 0 8))) ∧
    (w &&& 0xFFFFFFFF = 0x40000000 ↔ decode w = .command .rxReset) ∧
    (w &&& 0xFFFE00FF = 0x50000000 ↔ decode w = .command (.rxRead (w.extractLsb' 8 9))) ∧
    (w &&& 0xFFFE0000 = 0x60000000 ↔ decode w = .command (.txLoad (w.extractLsb' 8 9) (w.extractLsb' 0 8))) ∧
    (w &&& 0xFFFE00FF = 0x70000000 ↔ decode w = .command (.txBegin (w.extractLsb' 8 9))) ∧
    (w &&& 0xFFFFFFFF = 0x80000000 ↔ decode w = .command .txNext) ∧
    (w &&& 0xFFFFFFFF = 0x90000000 ↔ decode w = .command .txReset) ∧
    (w &&& 0xFFFE00FF = 0xA0000000 ↔ decode w = .command (.arqSend (w.extractLsb' 8 9))) ∧
    (w &&& 0xFFFFFF00 = 0xB0000000 ↔ decode w = .command (.ack (w.extractLsb' 0 8))) ∧
    (w &&& 0xFFFFFFFF = 0xC0000000 ↔ decode w = .command .arqAbort) ∧
    (w &&& 0xFFFFFF00 = 0xD0000000 ∧ (w.extractLsb' 0 8).toNat ≤ 7 ↔ decode w = .command (.read (w.extractLsb' 0 8))) ∧
    (w &&& 0xFFFFFFFF = 0xE0000000 ↔ decode w = .command .clrIll) ∧
    (w &&& 0xF0000000 = 0xF0000000 ↔ decode w = .command (.reserved (w.extractLsb' 0 28)))

/-- 30_encoding.md R74, R76: outside OP = 0xF, decoding answers Illegal exactly for a nonzero RSV, a nonzero unused A or
D, or READ of an index above 0x07. That the words with OP = 0xF decode to the reserved row instead, which is illegal when
it executes, is the model's choice (log 11). -/
def Obligations.DecodeAnswersIllegalExactlyWhen : Prop :=
  ∀ w : Word,
    (∃ e, decode w = .illegal e) ↔
      w.extractLsb' 28 4 ≠ 0xF ∧
        (w.extractLsb' 17 11 ≠ 0 ∨
          (w.extractLsb' 28 4 ∉ [0x5, 0x6, 0x7, 0xA] ∧ w.extractLsb' 8 9 ≠ 0) ∨
          (w.extractLsb' 28 4 ∉ [0x1, 0x2, 0x3, 0x6, 0xB, 0xD] ∧ w.extractLsb' 0 8 ≠ 0) ∨
          (w.extractLsb' 28 4 = 0xD ∧ 7 < (w.extractLsb' 0 8).toNat))

/-- Words of 95_test_vectors.md, one for each family, decode to the commands they stand for. -/
def Obligations.SpecWordsDecodeToTheirCommands : Prop :=
  decode 0x2000005A = .command (.chkFold 0x5A) ∧
    decode 0x50000100 = .command (.rxRead 1) ∧
    decode 0x60000102 = .command (.txLoad 1 0x02) ∧
    decode 0xA0010000 = .command (.arqSend 256) ∧
    decode 0xB0000015 = .command (.ack 0x15) ∧
    decode 0xD0000005 = .command (.read 5) ∧
    decode 0xD0000008 = .illegal .registerIndex

/-! ### The cycle -/

/-- 44_system.md R217: a cycle with rst = 0 whose word decodes to a command is that command's `exec`, on the state with
the cycle's inputs taken and every output 0, and then the tick. A word with OP = 0xF counts here as the command of the
reserved row, which is the model's choice (log 11). -/
def Obligations.StepRunsTheDecodedCommand : Prop :=
  ∀ (s : State) (c : CycleInput) (rest : List CycleInput) (i : Instr),
    s.cfg.wf = true → s.inputs = c :: rest → c.rst = false → c.cmdValid = true → decode c.cmd = .command i →
      step s =
        match exec i { s with inputs := rest, out := Outputs.zero } with
        | .next t => arqTick c.sinkReady t
        | .fault f => .fault f
        | .refused r => .refused r

/-- 44_system.md R213, R217: a word that decodes to Illegal sets ill, answers 0 with resp_ill = 1 and emits nothing; the
tick of the cycle still runs. -/
def Obligations.StepOnAnIllegalWordOnlySetsIll : Prop :=
  ∀ (s : State) (c : CycleInput) (rest : List CycleInput) (e : IllegalWord),
    s.cfg.wf = true → s.inputs = c :: rest → c.rst = false → c.cmdValid = true → decode c.cmd = .illegal e →
      step s =
        arqTick c.sinkReady
          { s with
            ill := true
            inputs := rest
            out := { respValid := true, respIll := true, resp := 0, txoValid := false, txoData := 0, txoFinal := false } }

/-- 44_system.md R217, R220: a cycle with cmd_valid = 0 changes the state only through the tick, and ignores cmd. -/
def Obligations.StepOfAnIdleCycleIsTheTick : Prop :=
  ∀ (s : State) (c : CycleInput) (rest : List CycleInput),
    s.cfg.wf = true → s.inputs = c :: rest → c.rst = false → c.cmdValid = false →
      step s = arqTick c.sinkReady { s with inputs := rest, out := Outputs.zero }

/-- 70_reset_and_hazards.md R260: a cycle with rst = 1 takes no command and no tick, gives every field its reset value,
keeps both buffers and holds every output at 0; a second such cycle changes nothing more. -/
def Obligations.ResetCycleGivesTheResetState : Prop :=
  ∀ (s : State) (c : CycleInput) (rest : List CycleInput),
    s.cfg.wf = true → s.inputs = c :: rest → c.rst = true →
      ∃ t, step s = .next t ∧
        t = { s with
              chkAcc := 0x00
              ill := false
              rx := { state := .waitStx, err := .none, len := 0x00, count := 0x00, chk := 0x00, buf := s.rx.buf }
              tx := { state := .idle, err := .none, len := 0x00, cursor := 0x00, chk := 0x00, buf := s.tx.buf }
              arq := { state := .idle, attempts := 0x00, timer := 0x0000 }
              inputs := rest
              out := { respValid := false, respIll := false, resp := 0, txoValid := false, txoData := 0,
                       txoFinal := false } } ∧
        ∀ (c2 : CycleInput) (rest2 : List CycleInput), rest = c2 :: rest2 → c2.rst = true →
          step t = .next { t with inputs := rest2 }

/-- 10_state.md R42: the values after reset. The buffers are unspecified there, and nothing is said of them here. -/
def Obligations.ResetStateHoldsTheResetValues : Prop :=
  State.reset.chkAcc = 0x00 ∧ State.reset.ill = false ∧
    State.reset.rx.state = .waitStx ∧ State.reset.rx.err = .none ∧
    State.reset.rx.len = 0x00 ∧ State.reset.rx.count = 0x00 ∧ State.reset.rx.chk = 0x00 ∧
    State.reset.tx.state = .idle ∧ State.reset.tx.err = .none ∧
    State.reset.tx.len = 0x00 ∧ State.reset.tx.cursor = 0x00 ∧ State.reset.tx.chk = 0x00 ∧
    State.reset.arq.state = .idle ∧ State.reset.arq.attempts = 0 ∧ State.reset.arq.timer = 0

/-- 00_scope.md R5, R8 and section 4: the engine refuses to run exactly when its configuration breaks a constraint, and
no cycle changes the configuration. -/
def Obligations.OnlyABadConfigurationIsRefused : Prop :=
  (∀ (s : State) (r : Refusal),
    step s = .refused r ↔
      r = .badConfig ∧ (s.cfg.stx = s.cfg.etx ∨ s.cfg.ack = s.cfg.nak ∨ s.cfg.retryBudget = 0)) ∧
  ∀ s t : State, step s = .next t → t.cfg = s.cfg

/-! ### System commands and illegal commands -/

/-- 44_system.md R210, R212: NOP writes nothing and answers 0; CLR_ILL clears ill, writes nothing else and answers 0, in
every state. -/
def Obligations.NopAndClrIllAnswerZero : Prop :=
  ∀ s : State,
    exec .nop s =
      .next { s with
        out := { respValid := true, respIll := false, resp := 0x00000000, txoValid := false, txoData := 0,
                 txoFinal := false } } ∧
    exec .clrIll s =
      .next { s with
        ill := false
        out := { respValid := true, respIll := false, resp := 0x00000000, txoValid := false, txoData := 0,
                 txoFinal := false } }

/-- 30_encoding.md R77, 44_system.md R213: the reserved operation is illegal whatever its other bits are. -/
def Obligations.ReservedOperationIsIllegal : Prop :=
  ∀ (x : BitVec 28) (s : State),
    exec (.reserved x) s =
      .next { s with
        ill := true
        out := { respValid := true, respIll := true, resp := 0x00000000, txoValid := false, txoData := 0,
                 txoFinal := false } }

/-- 44_system.md R213, R214, R211: a command that its state or its register index makes illegal takes the one exception:
ill is set, the answer is 0 with resp_ill = 1, nothing else is written and nothing is emitted. -/
def Obligations.IllegalCommandsWriteOnlyIll : Prop :=
  ∀ (i : Instr) (s : State),
    (((s.arq.state = .sending ∨ s.arq.state = .waitAck) ∧
        ((∃ a d, i = .txLoad a d) ∨ (∃ a, i = .txBegin a) ∨ i = .txNext ∨ i = .txReset ∨ ∃ a, i = .arqSend a)) ∨
      (∃ a d, i = .txLoad a d ∧
        (s.tx.state ∈ [TxState.sendStx, .sendLen, .sendData, .sendChk, .sendEtx] ∨
          s.cfg.maxPayload.toNat ≤ a.toNat)) ∨
      ∃ d, i = .read d ∧ 7 < d.toNat) →
      exec i s =
        .next { s with
          ill := true
          out := { respValid := true, respIll := true, resp := 0x00000000, txoValid := false, txoData := 0,
                   txoFinal := false } }

/-- 44_system.md R214: no other command is ever illegal in a given state, and every command answers with resp_valid. -/
def Obligations.CommandsAreIllegalExactlyWhen : Prop :=
  ∀ (i : Instr) (s t : State), exec i s = .next t →
    t.out.respValid = true ∧
    (t.out.respIll = true ↔
      ((s.arq.state = .sending ∨ s.arq.state = .waitAck) ∧
        ((∃ a d, i = .txLoad a d) ∨ (∃ a, i = .txBegin a) ∨ i = .txNext ∨ i = .txReset ∨ ∃ a, i = .arqSend a)) ∨
      (∃ a d, i = .txLoad a d ∧
        (s.tx.state ∈ [TxState.sendStx, .sendLen, .sendData, .sendChk, .sendEtx] ∨
          s.cfg.maxPayload.toNat ≤ a.toNat)) ∨
      (∃ d, i = .read d ∧ 7 < d.toNat) ∨
      ∃ x, i = .reserved x)

/-- 10_state.md R28: ill is sticky. While it is set, only CLR_ILL and reset clear it. -/
def Obligations.IllStaysSetUntilCleared : Prop :=
  ∀ s t : State, step s = .next t → s.ill = true → s.port.rst = false →
    (t.ill = false ↔ s.port.cmdValid = true ∧ decode s.port.cmd = .command .clrIll)

/-! ### READ and the register map -/

/-- 10_state.md R33 (arq_busy R31), R36 (codes R27), R37 and 44_system.md R211: READ 0x00, 0x03 and 0x04, bit by bit; no
state changes. -/
def Obligations.ReadGstatArqstatChkacc : Prop :=
  ∀ s : State,
    (∃ r : Word, exec (.read 0x00) s = .next { s with out := Outputs.response r } ∧
      r.getLsbD 0 = s.ill ∧
      (r.getLsbD 1 = true ↔ s.arq.state = .sending ∨ s.arq.state = .waitAck) ∧
      r.extractLsb' 2 30 = 0) ∧
    (∃ r : Word, exec (.read 0x03) s = .next { s with out := Outputs.response r } ∧
      r.extractLsb' 0 3 =
        (match s.arq.state with
          | .idle => 0 | .sending => 1 | .waitAck => 2 | .acked => 3 | .exhausted => 4 | .overflow => 5) ∧
      r.extractLsb' 3 5 = 0 ∧ r.extractLsb' 8 8 = s.arq.attempts ∧ r.extractLsb' 16 16 = s.arq.timer) ∧
    (∃ r : Word, exec (.read 0x04) s = .next { s with out := Outputs.response r } ∧
      r.extractLsb' 0 8 = s.chkAcc ∧ r.extractLsb' 8 24 = 0)

/-- 10_state.md R34, R29, R23: READ 0x01, field by field, with the codes of the states, the kinds and the status. -/
def Obligations.ReadRxstatFields : Prop :=
  ∀ s : State,
    ∃ r : Word, exec (.read 0x01) s = .next { s with out := Outputs.response r } ∧
      r.extractLsb' 0 2 = (match s.rx.state with | .done => 1 | .error => 2 | _ => 0) ∧
      r.extractLsb' 2 2 =
        (match s.rx.err with | .none => 0 | .overflow => 1 | .checksumMismatch => 2 | .framingError => 3) ∧
      r.extractLsb' 4 3 =
        (match s.rx.state with
          | .waitStx => 0 | .waitLen => 1 | .readData => 2 | .checkChk => 3 | .waitEtx => 4 | .done => 5 | .error => 6) ∧
      r.getLsbD 7 = false ∧
      r.extractLsb' 8 8 = s.rx.len ∧ r.extractLsb' 16 8 = s.rx.count ∧ r.extractLsb' 24 8 = s.rx.chk

/-- 10_state.md R35, R30, R25: READ 0x02, field by field. -/
def Obligations.ReadTxstatFields : Prop :=
  ∀ s : State,
    ∃ r : Word, exec (.read 0x02) s = .next { s with out := Outputs.response r } ∧
      r.extractLsb' 0 2 = (match s.tx.state with | .idle => 0 | .done => 2 | .error => 3 | _ => 1) ∧
      r.extractLsb' 2 2 = (match s.tx.err with | .none => 0 | .overflow => 1) ∧
      r.extractLsb' 4 3 =
        (match s.tx.state with
          | .idle => 0 | .sendStx => 1 | .sendLen => 2 | .sendData => 3 | .sendChk => 4 | .sendEtx => 5 | .done => 6
          | .error => 7) ∧
      r.getLsbD 7 = false ∧
      r.extractLsb' 8 8 = s.tx.len ∧ r.extractLsb' 16 8 = s.tx.cursor ∧ r.extractLsb' 24 8 = s.tx.chk

/-- 10_state.md R38 to R40: READ 0x05 to 0x07 return the configuration, and with the values the spec takes the words
0x15060302, 0x000003FF and 0. -/
def Obligations.ReadParametersReturnTheConfiguration : Prop :=
  ∀ s : State,
    ∃ r5 r6 r7 : Word,
      exec (.read 0x05) s = .next { s with out := Outputs.response r5 } ∧
      exec (.read 0x06) s = .next { s with out := Outputs.response r6 } ∧
      exec (.read 0x07) s = .next { s with out := Outputs.response r7 } ∧
      r5.extractLsb' 0 8 = s.cfg.stx ∧ r5.extractLsb' 8 8 = s.cfg.etx ∧
      r5.extractLsb' 16 8 = s.cfg.ack ∧ r5.extractLsb' 24 8 = s.cfg.nak ∧
      r6.extractLsb' 0 8 = s.cfg.maxPayload ∧ r6.extractLsb' 8 8 = s.cfg.retryBudget ∧
      r6.getLsbD 16 = s.cfg.rxAutoReset ∧ r6.extractLsb' 17 15 = 0 ∧
      r7.extractLsb' 0 16 = s.cfg.ackTimeout ∧ r7.extractLsb' 16 16 = 0 ∧
      (s.cfg = Config.specDefault → r5 = 0x15060302 ∧ r6 = 0x000003FF ∧ r7 = 0x00000000)

/-! ### The checksum and the CHK commands -/

/-- 40_checksum.md R102, R103: CHK_SEED writes its byte to chk_acc and CHK_FOLD xors its byte into it; they write nothing
else and answer chk_acc. -/
def Obligations.ChkCommandsDriveTheAccumulator : Prop :=
  ∀ (d : Byte) (s : State),
    exec (.chkSeed d) s = .next { s with chkAcc := d, out := Outputs.response (d.setWidth 32) } ∧
    exec (.chkFold d) s =
      .next { s with chkAcc := s.chkAcc ^^^ d, out := Outputs.response ((s.chkAcc ^^^ d).setWidth 32) }

/-- 40_checksum.md R102, 30_encoding.md R85: the pseudo-command CHECKSUM leaves chk_acc = fold(seed, bytes) and changes
nothing else. -/
def Obligations.ChecksumCommandsComputeTheFold : Prop :=
  ∀ (seed : Byte) (bs : List Byte) (s : State),
    ∃ os t, execAll (expandChecksum seed bs) s = some (os, t) ∧
      t = { s with chkAcc := fold seed bs, out := Outputs.response ((fold seed bs).setWidth 32) }

/-- 40_checksum.md R104, R106: fold splits; its seed comes out by xor; the order of the bytes does not matter; a byte met
twice cancels; changing one byte x to y changes the fold by x xor y, so that a flipped bit flips that bit of the fold and
the fold changes whenever the byte does; the same holds of the seed. -/
def Obligations.FoldLaws : Prop :=
  (∀ (s : Byte) (p q : List Byte), fold s (p ++ q) = fold (fold s p) q) ∧
    (∀ (s : Byte) (p : List Byte), fold s p = s ^^^ fold 0x00 p) ∧
    (∀ (s : Byte) (p q : List Byte), p.Perm q → fold s p = fold s q) ∧
    (∀ (s b : Byte) (p q r : List Byte), fold s (p ++ [b] ++ q ++ [b] ++ r) = fold s (p ++ q ++ r)) ∧
    ∀ (s : Byte) (p q : List Byte) (x y : Byte),
      fold s (p ++ [y] ++ q) = fold s (p ++ [x] ++ q) ^^^ (x ^^^ y) ∧
        (x ≠ y → fold s (p ++ [y] ++ q) ≠ fold s (p ++ [x] ++ q)) ∧
        (∀ k < 8, fold s (p ++ [x ^^^ (1 <<< k)] ++ q) = fold s (p ++ [x] ++ q) ^^^ (1 <<< k)) ∧
        fold y p = fold x p ^^^ (x ^^^ y)

/-- 40_checksum.md R107: what makes a byte sequence a valid frame, place by place; it is one exactly when it is encode(p)
for a payload the capacity admits; and that p is unique: the bytes between the LEN and the CHK byte. -/
def Obligations.ValidFramesAreTheEncodedPayloads : Prop :=
  ∀ (c : Config) (f : List Byte),
    (validFrame c f = true ↔
      4 ≤ f.length ∧ f[0]? = some c.stx ∧
        ∃ len : Byte, f[1]? = some len ∧ len.toNat ≤ c.maxPayload.toNat ∧ f.length = len.toNat + 4 ∧
          f[len.toNat + 2]? = some (fold c.stx ((f.drop 1).take (len.toNat + 1))) ∧ f[len.toNat + 3]? = some c.etx) ∧
    (validFrame c f = true ↔ ∃ p, p.length ≤ c.maxPayload.toNat ∧ f = encodeFrame c p) ∧
    ∀ p : List Byte, p.length ≤ c.maxPayload.toNat → f = encodeFrame c p → p = (f.drop 2).take (f.length - 4)

/-! ### The receiver -/

/-- 41_receiver.md R121: in WaitStx a byte other than STX changes nothing, and STX opens a frame; the status is Pending
either way. -/
def Obligations.RxFeedInWaitStx : Prop :=
  ∀ (b : Byte) (s : State), s.rx.state = .waitStx →
    ∃ rx r, exec (.rxFeed b) s = .next { s with rx := rx, out := Outputs.response r } ∧
      rx = (if b = s.cfg.stx then
              { s.rx with chk := s.cfg.stx, len := 0x00, count := 0x00, state := .waitLen }
            else s.rx) ∧
      r = rxstat rx ∧ r.extractLsb' 0 2 = 0

/-- 41_receiver.md R122, R123: in Done or Error nothing changes under RX_AUTO_RESET = 0; under RX_AUTO_RESET = 1 the
session is reset and the byte handled as in WaitStx. The response is RXSTAT after the step. -/
def Obligations.RxFeedInATerminalState : Prop :=
  ∀ (b : Byte) (s : State), s.rx.state = .done ∨ s.rx.state = .error →
    ∃ rx, exec (.rxFeed b) s = .next { s with rx := rx, out := Outputs.response (rxstat rx) } ∧
      (s.cfg.rxAutoReset = false → rx = s.rx) ∧
      (s.cfg.rxAutoReset = true → b = s.cfg.stx →
        rx = { state := .waitLen, err := .none, len := 0x00, count := 0x00, chk := s.cfg.stx, buf := s.rx.buf }) ∧
      (s.cfg.rxAutoReset = true → b ≠ s.cfg.stx →
        rx = { state := .waitStx, err := .none, len := 0x00, count := 0x00, chk := 0x00, buf := s.rx.buf })

/-- 41_receiver.md R124, R138: in WaitLen the byte is stored and folded as the length; above the capacity the receiver
fails with Overflow before any data byte, a length of 0 skips the data. With MAX_PAYLOAD = 255 it never fails. -/
def Obligations.RxFeedInWaitLen : Prop :=
  ∀ (b : Byte) (s : State), s.rx.state = .waitLen →
    ∃ rx, exec (.rxFeed b) s = .next { s with rx := rx, out := Outputs.response (rxstat rx) } ∧
      rx = { s.rx with
              len := b
              chk := s.rx.chk ^^^ b
              state := if s.cfg.maxPayload.toNat < b.toNat then .error else if b = 0 then .checkChk else .readData
              err := if s.cfg.maxPayload.toNat < b.toNat then .overflow else s.rx.err } ∧
      (s.cfg.maxPayload = 255 → rx.state ≠ .error)

/-- 41_receiver.md R125: in ReadData the byte is stored in RXBUF at rx_count, folded and counted, and the last one leads
to CheckChk; at the declared length or at the capacity the receiver fails with Overflow and stores nothing. Every other
byte of RXBUF reads as before. -/
def Obligations.RxFeedInReadData : Prop :=
  ∀ (b : Byte) (s : State), s.rx.state = .readData →
    (s.rx.len.toNat ≤ s.rx.count.toNat ∨ s.cfg.maxPayload.toNat ≤ s.rx.count.toNat →
      ∃ rx, exec (.rxFeed b) s = .next { s with rx := rx, out := Outputs.response (rxstat rx) } ∧
        rx = { s.rx with state := .error, err := .overflow }) ∧
    (s.rx.count.toNat < s.rx.len.toNat → s.rx.count.toNat < s.cfg.maxPayload.toNat →
      ∃ rx t, exec (.rxFeed b) s = .next t ∧
        t = { s with rx := rx, out := Outputs.response (rxstat rx) } ∧
        rx = { s.rx with
                buf := rx.buf
                chk := s.rx.chk ^^^ b
                count := s.rx.count + 1
                state := if s.rx.count.toNat + 1 = s.rx.len.toNat then .checkChk else .readData } ∧
        memRead .rxbuf s.rx.count.toNat t = some b ∧
        ∀ k, k ≠ s.rx.count.toNat → memRead .rxbuf k t = memRead .rxbuf k s)

/-- 41_receiver.md R126, R127: the CHK byte must equal the running checksum and the terminator must be ETX; the receiver
moves on, or fails with ChecksumMismatch or FramingError, and nothing else changes. -/
def Obligations.RxFeedChecksTheTrailer : Prop :=
  ∀ (b : Byte) (s : State),
    (s.rx.state = .checkChk →
      ∃ rx, exec (.rxFeed b) s = .next { s with rx := rx, out := Outputs.response (rxstat rx) } ∧
        rx = (if b = s.rx.chk then { s.rx with state := .waitEtx }
              else { s.rx with state := .error, err := .checksumMismatch })) ∧
    (s.rx.state = .waitEtx →
      ∃ rx, exec (.rxFeed b) s = .next { s with rx := rx, out := Outputs.response (rxstat rx) } ∧
        rx = (if b = s.cfg.etx then { s.rx with state := .done }
              else { s.rx with state := .error, err := .framingError }))

/-- 41_receiver.md R131: RX_RESET gives the five session registers their initial values in every state, keeps RXBUF,
writes nothing else and answers 0; no packet is readable after it. -/
def Obligations.RxResetDropsTheSession : Prop :=
  ∀ s : State,
    ∃ t, exec .rxReset s = .next t ∧
      t = { s with
            rx := { state := .waitStx, err := .none, len := 0x00, count := 0x00, chk := 0x00, buf := s.rx.buf }
            out := Outputs.response 0x00000000 } ∧
      t.packet = none

/-- 41_receiver.md R132: RX_READ writes nothing and answers the byte RXBUF[A] in Done with A below rx_len, and 0x00
otherwise. The hypothesis says that rx_len fits the buffer, as it does in every reachable state (R43). -/
def Obligations.RxReadReturnsThePacketByte : Prop :=
  ∀ (a : Index) (s : State), (s.rx.state = .done → s.rx.len.toNat ≤ s.cfg.maxPayload.toNat) →
    ∃ v : Byte, exec (.rxRead a) s = .next { s with out := Outputs.response (v.setWidth 32) } ∧
      (s.rx.state = .done ∧ a.toNat < s.rx.len.toNat → memRead .rxbuf a.toNat s = some v) ∧
      (¬ (s.rx.state = .done ∧ a.toNat < s.rx.len.toNat) → v = 0x00)

/-- 41_receiver.md R134: from WaitStx, after any bytes that are not STX, the frame of any payload the capacity admits is
received: every response but the last is Pending, the last is Complete, and the packet is the payload with its
checksum. -/
def Obligations.ReceiverRoundTrip : Prop :=
  ∀ (s : State) (noise p : List Byte),
    s.rx.state = .waitStx → p.length ≤ s.cfg.maxPayload.toNat → (∀ b ∈ noise, b ≠ s.cfg.stx) →
      ∃ os t, execAll ((noise ++ encodeFrame s.cfg p).map .rxFeed) s = some (os, t) ∧
        t.packet = some (p, frameChk s.cfg p) ∧
        os.map (fun o => o.resp.extractLsb' 0 2) = List.replicate (noise.length + p.length + 3) 0 ++ [1]

/-- 41_receiver.md R135: one changed byte among DATA and CHK is reported as ChecksumMismatch at the CHK byte, and at no
byte up to there as Complete. -/
def Obligations.ChangedDataOrChkByteIsDetected : Prop :=
  ∀ (s : State) (p : List Byte) (j : Nat) (x : Byte),
    s.rx.state = .waitStx → p.length ≤ s.cfg.maxPayload.toNat → 2 ≤ j → j ≤ p.length + 2 → x ≠ 0 →
      ∃ os t,
        execAll ((((encodeFrame s.cfg p).modify j (· ^^^ x)).take (p.length + 3)).map .rxFeed) s = some (os, t) ∧
          t.rx.state = .error ∧ t.rx.err = .checksumMismatch ∧
          os.map (fun o => o.resp.extractLsb' 0 2) = List.replicate (p.length + 2) 0 ++ [2]

/-- 41_receiver.md R137: a frame whose last byte is not ETX ends in Failed(FramingError) at that byte. -/
def Obligations.WrongTerminatorIsAFramingError : Prop :=
  ∀ (s : State) (p : List Byte) (b : Byte),
    s.rx.state = .waitStx → p.length ≤ s.cfg.maxPayload.toNat → b ≠ s.cfg.etx →
      ∃ os t, execAll (((encodeFrame s.cfg p).dropLast ++ [b]).map .rxFeed) s = some (os, t) ∧
        t.rx.state = .error ∧ t.rx.err = .framingError ∧
        os.map (fun o => o.resp.extractLsb' 0 2) = List.replicate (p.length + 3) 0 ++ [2]

/-- 41_receiver.md R139: from WaitStx under RX_AUTO_RESET = 0, with r the bytes from the first STX on: the receiver is
Done exactly when a valid frame is a prefix of r, and failed exactly when r neither has a valid frame as a prefix nor is
a prefix of one. How R139's third case is read here is log 19. -/
def Obligations.ReceiverClassifiesEverySequence : Prop :=
  ∀ (s : State) (q : List Byte), s.rx.state = .waitStx → s.cfg.rxAutoReset = false →
    ∃ os t, execAll (q.map .rxFeed) s = some (os, t) ∧
      (t.rx.state = .done ↔ ∃ f, validFrame s.cfg f = true ∧ f <+: q.dropWhile (· ≠ s.cfg.stx)) ∧
      (t.rx.state = .error ↔
        ¬ ∃ f, validFrame s.cfg f = true ∧
          (f <+: q.dropWhile (· ≠ s.cfg.stx) ∨ q.dropWhile (· ≠ s.cfg.stx) <+: f))

/-! ### The transmitter -/

/-- 42_transmitter.md R151: a legal TX_LOAD stores its byte at TXBUF[A], writes nothing else and answers TXSTAT; every
other byte of TXBUF reads as before. -/
def Obligations.TxLoadStoresOneByte : Prop :=
  ∀ (a : Index) (d : Byte) (s : State),
    arqBusy s = false → s.tx.state ∈ [TxState.idle, .done, .error] → a.toNat < s.cfg.maxPayload.toNat →
      ∃ t, exec (.txLoad a d) s = .next t ∧
        t = { s with tx := { s.tx with buf := t.tx.buf }, out := Outputs.response (txstat s.tx) } ∧
        memRead .txbuf a.toNat t = some d ∧
        (∀ k, k ≠ a.toNat → memRead .txbuf k t = memRead .txbuf k s) ∧
        (Memory.wf s.tx.buf = true → Memory.wf t.tx.buf = true)

/-- 42_transmitter.md R152, R155: TX_BEGIN of a length the capacity admits restarts the session at SendStx with the
frame's checksum already computed, in every transmitter state, and writes the five session registers only. -/
def Obligations.TxBeginStartsTheFrame : Prop :=
  ∀ (n : Index) (s : State) (p : List Byte),
    arqBusy s = false → n.toNat ≤ s.cfg.maxPayload.toNat → p.length = n.toNat →
    (∀ i (h : i < p.length), memRead .txbuf i s = some p[i]) →
      ∃ tx, exec (.txBegin n) s = .next { s with tx := tx, out := Outputs.response (txstat tx) } ∧
        tx = { state := .sendStx, err := .none, len := n.setWidth 8, cursor := 0x00, chk := frameChk s.cfg p,
               buf := s.tx.buf }

/-- 42_transmitter.md R152, R155, R162: TX_BEGIN above the capacity gives Error(Overflow) with the session registers 0;
however often TX_NEXT follows, it emits nothing and answers 0x00001C00. -/
def Obligations.OverflowingBeginEmitsNothing : Prop :=
  ∀ (n : Index) (s : State) (k : Nat), arqBusy s = false → s.cfg.maxPayload.toNat < n.toNat →
    (∃ tx, exec (.txBegin n) s = .next { s with tx := tx, out := Outputs.response (txstat tx) } ∧
      tx = { state := .error, err := .overflow, len := 0x00, cursor := 0x00, chk := 0x00, buf := s.tx.buf }) ∧
    ∃ os t, execAll (.txBegin n :: List.replicate k .txNext) s = some (os, t) ∧
      os.tail = List.replicate k (Outputs.response 0x00001C00) ∧ txoTrace os = []

/-- 42_transmitter.md R157 to R159: TX_NEXT by state: what it emits and the next state; in Idle, Done and Error it changes
no field and emits nothing. `TxNextResponseCarriesTheEmission` says what the response `r` is. -/
def Obligations.TxNextEmitsInFrameOrder : Prop :=
  ∀ s : State, arqBusy s = false →
    (s.tx.state = .sendStx →
      ∃ tx r, exec .txNext s =
          .next { s with tx := tx, out := { Outputs.response r with txoValid := true, txoData := s.cfg.stx } } ∧
        tx = { s.tx with state := .sendLen }) ∧
    (s.tx.state = .sendLen →
      ∃ tx r, exec .txNext s =
          .next { s with tx := tx, out := { Outputs.response r with txoValid := true, txoData := s.tx.len } } ∧
        tx = { s.tx with state := if s.tx.len = 0 then .sendChk else .sendData }) ∧
    (∀ b, s.tx.state = .sendData → memRead .txbuf s.tx.cursor.toNat s = some b →
      ∃ tx r, exec .txNext s =
          .next { s with tx := tx, out := { Outputs.response r with txoValid := true, txoData := b } } ∧
        tx = { s.tx with
                cursor := s.tx.cursor + 1
                state := if s.tx.cursor + 1 = s.tx.len then .sendChk else .sendData }) ∧
    (s.tx.state = .sendChk →
      ∃ tx r, exec .txNext s =
          .next { s with tx := tx, out := { Outputs.response r with txoValid := true, txoData := s.tx.chk } } ∧
        tx = { s.tx with state := .sendEtx }) ∧
    (s.tx.state = .sendEtx →
      ∃ tx r, exec .txNext s =
          .next { s with
            tx := tx, out := { Outputs.response r with txoValid := true, txoData := s.cfg.etx, txoFinal := true } } ∧
        tx = { s.tx with state := .done }) ∧
    (s.tx.state ∈ [TxState.idle, .done, .error] →
      ∃ r, exec .txNext s = .next { s with out := Outputs.response r })

/-- 30_encoding.md R79: the TXNEXT response word, bit by bit, against the outputs of the same cycle. -/
def Obligations.TxNextResponseCarriesTheEmission : Prop :=
  ∀ s t : State, arqBusy s = false → exec .txNext s = .next t →
    t.out.resp.extractLsb' 0 8 = t.out.txoData ∧ t.out.resp.getLsbD 8 = t.out.txoValid ∧
      t.out.resp.getLsbD 9 = t.out.txoFinal ∧
      (t.out.txoValid = false → t.out.resp.extractLsb' 0 8 = 0x00) ∧
      (t.out.txoFinal = true ↔ s.tx.state = .sendEtx) ∧
      t.out.resp.extractLsb' 10 2 = (match t.tx.state with | .idle => 0 | .done => 2 | .error => 3 | _ => 1) ∧
      t.out.resp.extractLsb' 12 2 = (match t.tx.err with | .none => 0 | .overflow => 1) ∧
      t.out.resp.extractLsb' 14 18 = 0

/-- 42_transmitter.md R154, R150: TX_RESET returns the transmitter to Idle, keeps TXBUF, writes nothing else and answers
0. -/
def Obligations.TxResetReturnsToIdle : Prop :=
  ∀ s : State, arqBusy s = false →
    exec .txReset s =
      .next { s with
        tx := { state := .idle, err := .none, len := 0x00, cursor := 0x00, chk := 0x00, buf := s.tx.buf }
        out := Outputs.response 0x00000000 }

/-- 42_transmitter.md R160: TX_BEGIN n and n + 4 TX_NEXTs emit exactly encode(TXBUF[0..n)), one byte each, with txo_final
on the last and on no other, and leave the transmitter in Done. -/
def Obligations.TransmitterEmitsTheEncodedFrame : Prop :=
  ∀ (s : State) (n : Index) (p : List Byte),
    arqBusy s = false → n.toNat ≤ s.cfg.maxPayload.toNat → p.length = n.toNat →
    (∀ i (h : i < p.length), memRead .txbuf i s = some p[i]) →
      ∃ o os t, execAll (.txBegin n :: List.replicate (n.toNat + 4) .txNext) s = some (o :: os, t) ∧
        o.txoValid = false ∧ (∀ x ∈ os, x.txoValid = true) ∧
        os.map (fun x => (x.txoData, x.txoFinal)) =
          (encodeFrame s.cfg p).zip (List.replicate (n.toNat + 3) false ++ [true]) ∧
        t.tx.state = .done

/-! ### The ARQ controller -/

/-- 43_arq.md R182: ARQ_SEND clears the counter and the timer and begins the frame, or ends at once in OVERFLOW; it
writes only the ARQ and TX session registers and answers ARQSTAT. -/
def Obligations.ArqSendBeginsOrOverflows : Prop :=
  ∀ (n : Index) (s : State) (p : List Byte), arqBusy s = false →
    (s.cfg.maxPayload.toNat < n.toNat →
      ∃ tx, exec (.arqSend n) s =
          .next { s with
            tx := tx, arq := { state := .overflow, attempts := 0, timer := 0 }, out := Outputs.response 0x00000005 } ∧
        tx = { state := .error, err := .overflow, len := 0x00, cursor := 0x00, chk := 0x00, buf := s.tx.buf }) ∧
    (n.toNat ≤ s.cfg.maxPayload.toNat → p.length = n.toNat →
      (∀ i (h : i < p.length), memRead .txbuf i s = some p[i]) →
        ∃ tx, exec (.arqSend n) s =
            .next { s with
              tx := tx, arq := { state := .sending, attempts := 0, timer := 0 }, out := Outputs.response 0x00000001 } ∧
          tx = { state := .sendStx, err := .none, len := n.setWidth 8, cursor := 0x00, chk := frameChk s.cfg p,
                 buf := s.tx.buf })

/-- 43_arq.md R184: ACK in WAIT_ACK ends the send; a byte that is neither ACK nor NAK there, and every byte outside
WAIT_ACK, is discarded. NAK in WAIT_ACK is `NakRetriesOrExhausts`. -/
def Obligations.AckEndsTheWaitOrIsDiscarded : Prop :=
  ∀ (d : Byte) (s : State),
    (s.arq.state = .waitAck → d = s.cfg.ack →
      ∃ arq, exec (.ack d) s = .next { s with arq := arq, out := Outputs.response (arqstat arq) } ∧
        arq = { s.arq with state := .acked }) ∧
    (s.arq.state ≠ .waitAck ∨ (d ≠ s.cfg.ack ∧ d ≠ s.cfg.nak) →
      exec (.ack d) s = .next { s with out := Outputs.response (arqstat s.arq) })

/-- 43_arq.md R183, R184: a NAK in WAIT_ACK counts; below the budget it restarts the frame of tx_len from the same
payload, at the budget it gives up and leaves the transmitter alone. -/
def Obligations.NakRetriesOrExhausts : Prop :=
  ∀ (s : State) (p : List Byte),
    s.arq.state = .waitAck → s.cfg.ack ≠ s.cfg.nak → s.arq.attempts.toNat < s.cfg.retryBudget.toNat →
    s.tx.len.toNat ≤ s.cfg.maxPayload.toNat → p.length = s.tx.len.toNat →
    (∀ i (h : i < p.length), memRead .txbuf i s = some p[i]) →
      (s.arq.attempts.toNat + 1 < s.cfg.retryBudget.toNat →
        ∃ tx arq, exec (.ack s.cfg.nak) s =
            .next { s with tx := tx, arq := arq, out := Outputs.response (arqstat arq) } ∧
          tx = { state := .sendStx, err := .none, len := s.tx.len, cursor := 0x00, chk := frameChk s.cfg p,
                 buf := s.tx.buf } ∧
          arq = { s.arq with attempts := s.arq.attempts + 1, state := .sending }) ∧
      (s.arq.attempts.toNat + 1 = s.cfg.retryBudget.toNat →
        ∃ arq, exec (.ack s.cfg.nak) s = .next { s with arq := arq, out := Outputs.response (arqstat arq) } ∧
          arq = { s.arq with attempts := s.cfg.retryBudget, state := .exhausted })

/-- 43_arq.md R185: ARQ_ABORT returns the controller to IDLE; it resets the transmitter only if the controller was busy,
keeps TXBUF, writes nothing else and answers 0. -/
def Obligations.ArqAbortCancelsTheSend : Prop :=
  ∀ s : State,
    ∃ tx, exec .arqAbort s =
        .next { s with
          tx := tx, arq := { state := .idle, attempts := 0, timer := 0 }, out := Outputs.response 0x00000000 } ∧
      tx = (if s.arq.state = .sending ∨ s.arq.state = .waitAck then
              { state := .idle, err := .none, len := 0x00, cursor := 0x00, chk := 0x00, buf := s.tx.buf }
            else s.tx)

/-- 43_arq.md R189: with the sink ready, the tick in SENDING does what TX_NEXT does to a transmitter that is mid-frame:
the same next session and the same byte on txo; after the final byte the controller waits with the timer at 0. With the
sink not ready nothing changes. -/
def Obligations.TickInSendingEmitsTheNextByte : Prop :=
  ∀ s : State, s.arq.state = .sending →
    arqTick false s = .next s ∧
    ∀ u, s.tx.state.midFrame = true → s.out.txoValid = false →
      exec .txNext { s with arq := { s.arq with state := .idle } } = .next u →
        arqTick true s =
          .next { s with
            tx := u.tx
            arq := if u.out.txoFinal then { s.arq with state := .waitAck, timer := 0 } else s.arq
            out := { s.out with txoValid := true, txoData := u.out.txoData, txoFinal := u.out.txoFinal } }

/-- 43_arq.md R190: in WAIT_ACK the tick does nothing without a timeout; with one it counts, and at ACK_TIMEOUT it takes
the timeout as a NAK: here a retry of the frame of tx_len, or EXHAUSTED at the budget. -/
def Obligations.TickInWaitAckCountsToTheTimeout : Prop :=
  ∀ (s : State) (p : List Byte) (ready : Bool), s.arq.state = .waitAck →
    (s.cfg.ackTimeout = 0 → arqTick ready s = .next s) ∧
    (s.arq.timer.toNat + 1 < s.cfg.ackTimeout.toNat →
      arqTick ready s = .next { s with arq := { s.arq with timer := s.arq.timer + 1 } }) ∧
    (s.arq.timer.toNat + 1 = s.cfg.ackTimeout.toNat → s.arq.attempts.toNat + 1 < s.cfg.retryBudget.toNat →
      s.tx.len.toNat ≤ s.cfg.maxPayload.toNat → p.length = s.tx.len.toNat →
      (∀ i (h : i < p.length), memRead .txbuf i s = some p[i]) →
        arqTick ready s =
          .next { s with
            tx := { state := .sendStx, err := .none, len := s.tx.len, cursor := 0x00, chk := frameChk s.cfg p,
                    buf := s.tx.buf }
            arq := { state := .sending, attempts := s.arq.attempts + 1, timer := s.cfg.ackTimeout } }) ∧
    (s.arq.timer.toNat + 1 = s.cfg.ackTimeout.toNat → s.arq.attempts.toNat + 1 = s.cfg.retryBudget.toNat →
      arqTick ready s =
        .next { s with arq := { state := .exhausted, attempts := s.cfg.retryBudget, timer := s.cfg.ackTimeout } })

/-- 43_arq.md R191: in IDLE, ACKED, EXHAUSTED and OVERFLOW the tick does nothing; in no state does it read or write an
RX or CHK field. -/
def Obligations.TickOutsideASendDoesNothing : Prop :=
  (∀ (ready : Bool) (s : State), s.arq.state ∈ [ArqState.idle, .acked, .exhausted, .overflow] →
    arqTick ready s = .next s) ∧
  ∀ (ready : Bool) (s t : State) (rx : RxUnit) (acc : Byte), arqTick ready s = .next t →
    t.rx = s.rx ∧ t.chkAcc = s.chkAcc ∧
      arqTick ready { s with rx := rx, chkAcc := acc } = .next { t with rx := rx, chkAcc := acc }

/-- 43_arq.md R188: with the sink ready, an ARQ_SEND of n bytes emits its frame in the n + 4 cycles that start with its
own, one byte a cycle, and enters WAIT_ACK in the last of them. -/
def Obligations.ArqSendEmitsTheFrameInFrameTime : Prop :=
  ∀ (s : State) (n : Index) (p : List Byte) (rest : List CycleInput),
    s.cfg.wf = true → arqBusy s = false → n.toNat ≤ s.cfg.maxPayload.toNat → p.length = n.toNat →
    (∀ i (h : i < p.length), memRead .txbuf i s = some p[i]) →
    s.inputs = commandCycle (.arqSend n) :: (List.replicate (n.toNat + 3) CycleInput.idle ++ rest) →
      ∃ os t, cycles (n.toNat + 4) s = some (os, t) ∧
        (∀ o ∈ os, o.txoValid = true) ∧
        os.map (fun x => (x.txoData, x.txoFinal)) =
          (encodeFrame s.cfg p).zip (List.replicate (n.toNat + 3) false ++ [true]) ∧
        t.arq.state = .waitAck ∧ t.inputs = rest

/-- 43_arq.md R186, R187: with the sink ready and no timeout, a send answered k times by NAK and then by ACK (k below the
budget), or by NAK up to the budget, puts its frame on txo k + 1 times, or RETRY_BUDGET times, and ends in ACKED with k
attempts counted, or in EXHAUSTED with RETRY_BUDGET counted. -/
def Obligations.RetryBoundUnderArq : Prop :=
  ∀ (s : State) (n : Index) (p : List Byte) (k : Nat) (last : Byte),
    s.cfg.wf = true → s.cfg.ackTimeout = 0 → arqBusy s = false → n.toNat ≤ s.cfg.maxPayload.toNat →
    p.length = n.toNat → (∀ i (h : i < p.length), memRead .txbuf i s = some p[i]) →
    k < s.cfg.retryBudget.toNat →
    (last = s.cfg.ack ∨ (last = s.cfg.nak ∧ k + 1 = s.cfg.retryBudget.toNat)) →
    s.inputs =
      commandCycle (.arqSend n) :: List.replicate (n.toNat + 3) CycleInput.idle ++
        (List.replicate k (commandCycle (.ack s.cfg.nak) :: List.replicate (n.toNat + 3) CycleInput.idle)).flatten ++
        [commandCycle (.ack last)] →
      ∃ os t, cycles s.inputs.length s = some (os, t) ∧
        (txoTrace os).map Prod.fst = (List.replicate (k + 1) (encodeFrame s.cfg p)).flatten ∧
        (last = s.cfg.ack → t.arq.state = .acked ∧ t.arq.attempts.toNat = k) ∧
        (last = s.cfg.nak → t.arq.state = .exhausted ∧ t.arq.attempts = s.cfg.retryBudget)

/-! ### Frames, independence and invariants -/

/-- 44_system.md R219: a command writes only its own unit's fields, and the tick only the ARQ and TX fields. -/
def Obligations.CommandsWriteOnlyTheirUnit : Prop :=
  (∀ (i : Instr) (s t : State), exec i s = .next t →
    t.cfg = s.cfg ∧ t.inputs = s.inputs ∧
    ((∀ d, i ≠ .chkSeed d) → (∀ d, i ≠ .chkFold d) → t.chkAcc = s.chkAcc) ∧
    ((∀ d, i ≠ .rxFeed d) → i ≠ .rxReset → t.rx = s.rx) ∧
    ((∀ a d, i ≠ .txLoad a d) → (∀ a, i ≠ .txBegin a) → i ≠ .txNext → i ≠ .txReset → (∀ a, i ≠ .arqSend a) →
      (∀ d, i ≠ .ack d) → i ≠ .arqAbort → t.tx = s.tx) ∧
    ((∀ a, i ≠ .arqSend a) → (∀ d, i ≠ .ack d) → i ≠ .arqAbort → t.arq = s.arq) ∧
    (i ≠ .clrIll → t.out.respIll = false → t.ill = s.ill)) ∧
  ∀ (ready : Bool) (s t : State), arqTick ready s = .next t →
    t.cfg = s.cfg ∧ t.inputs = s.inputs ∧ t.chkAcc = s.chkAcc ∧ t.ill = s.ill ∧ t.rx = s.rx

/-- 20_memory.md R50, R59: only TX_LOAD writes TXBUF and only RX_FEED writes RXBUF, one byte each, at A and at rx_count;
every byte elsewhere, and every byte at any other command and at the tick, reads as before. -/
def Obligations.EveryOtherBufferByteIsUnchanged : Prop :=
  (∀ (i : Instr) (s t : State), exec i s = .next t →
    ∀ (sp : Space) (k : Nat),
      (∀ a d, i = .txLoad a d → ¬ (sp = .txbuf ∧ k = a.toNat)) →
      (∀ d, i = .rxFeed d → ¬ (sp = .rxbuf ∧ s.rx.state = .readData ∧ k = s.rx.count.toNat)) →
        memRead sp k t = memRead sp k s) ∧
  ∀ (ready : Bool) (s t : State), arqTick ready s = .next t →
    ∀ (sp : Space) (k : Nat), memRead sp k t = memRead sp k s

/-- 44_system.md R218: at most one byte is emitted per cycle. Only a legal TX_NEXT emits, with the controller not busy;
it leaves the controller's state alone, and the tick after it does nothing. -/
def Obligations.AtMostOneBytePerCycle : Prop :=
  ∀ (i : Instr) (s t : State), exec i s = .next t → t.out.txoValid = true →
    i = .txNext ∧ t.out.respIll = false ∧ arqBusy s = false ∧ t.arq = s.arq ∧ ∀ ready, arqTick ready t = .next t

/-- 20_memory.md R63, 43_arq.md R193: what a cycle does to the RX fields depends on nothing but them, the configuration
and the cycle's inputs; and what it does to the TX and ARQ fields and to txo depends on nothing but those. -/
def Obligations.DirectionsDoNotInterfere : Prop :=
  ∀ s s' t t' : State, step s = .next t → step s' = .next t' → s.cfg = s'.cfg → s.inputs = s'.inputs →
    (s.rx = s'.rx → t.rx = t'.rx) ∧
    (s.tx = s'.tx → s.arq = s'.arq →
      t.tx = t'.tx ∧ t.arq = t'.arq ∧ t.out.txoValid = t'.out.txoValid ∧ t.out.txoData = t'.out.txoData ∧
        t.out.txoFinal = t'.out.txoFinal) ∧
    (s.chkAcc = s'.chkAcc → t.chkAcc = t'.chkAcc)

/-- 20_memory.md R59: repeating one of these commands at once has the same effect as issuing it once. -/
def Obligations.RepeatableCommandsAreIdempotent : Prop :=
  ∀ (i : Instr) (s t : State),
    (i = .nop ∨ (∃ d, i = .read d) ∨ (∃ a, i = .rxRead a) ∨ i = .rxReset ∨ i = .txReset ∨ i = .clrIll ∨
      i = .arqAbort ∨ (∃ d, i = .chkSeed d) ∨ ∃ a d, i = .txLoad a d) →
    exec i s = .next t → exec i t = .next t

/-- 10_state.md R43: the state right after reset has the invariant. -/
def Obligations.ResetStateHasTheInvariant : Prop := Inv State.reset

/-- 10_state.md R43: every step keeps the invariant, from every state that has it, under every configuration. -/
def Obligations.StepKeepsTheInvariant : Prop :=
  ∀ s t : State, Inv s → step s = .next t → Inv t

/-- 20_memory.md R57 (d): internal accesses never leave a buffer, so in a state that has the invariant the step answers
a next state, whatever the host presents. -/
def Obligations.InvariantStatesNeverStop : Prop :=
  ∀ s : State, Inv s → Runs s

/-- The model's choice (log 7; the spec says that these indices do not exist, 20_memory.md R50): an internal read at an
index that its buffer does not have stops with a fault of its own name, in TX_NEXT, in the tick that drains the
transmitter, and in RX_READ. -/
def Obligations.InternalReadOutsideABufferFaults : Prop :=
  (∀ s : State, arqBusy s = false → s.tx.state = .sendData → s.cfg.maxPayload.toNat ≤ s.tx.cursor.toNat →
    exec .txNext s = .fault .txbufRange) ∧
  (∀ s : State, s.arq.state = .sending → s.tx.state = .sendData → s.cfg.maxPayload.toNat ≤ s.tx.cursor.toNat →
    arqTick true s = .fault .txbufRange) ∧
  (∀ (a : Index) (s : State), s.rx.state = .done → a.toNat < s.rx.len.toNat → s.cfg.maxPayload.toNat ≤ a.toNat →
    exec (.rxRead a) s = .fault .rxbufRange)
end

