-- ==== Sys2Proof/Laws/Checksum.lean ====
section
/-! SUPPORT. The small lemmas of the checksum and of the frame. -/

namespace Sys2Proof.Machine

@[simp] theorem fold_nil (a : Byte) : fold a [] = a := rfl
@[simp] theorem fold_cons (a b : Byte) (bs : List Byte) : fold a (b :: bs) = fold (a ^^^ b) bs := rfl

theorem frameChk_eq (c : Config) (p : List Byte) : frameChk c p = fold (c.stx ^^^ BitVec.ofNat 8 p.length) p := rfl

theorem encodeFrame_eq (c : Config) (p : List Byte) :
    encodeFrame c p = c.stx :: BitVec.ofNat 8 p.length :: (p ++ [frameChk c p, c.etx]) := rfl

@[simp] theorem encodeFrame_length (c : Config) (p : List Byte) : (encodeFrame c p).length = p.length + 4 := by
  simp [encodeFrame_eq]

end Sys2Proof.Machine
end

