-- ==== Sys2Proof/Laws/State.lean ====
section
/-! SUPPORT. One lemma for each field of State and each update of one field, true by rfl, so that no proof unfolds a
record update; and the fields after the compound updates of Machine/Ops.lean. -/

namespace Sys2Proof.Machine

@[simp] theorem State.setChkAcc_chkAcc (s : State) (v : Byte) : (s.setChkAcc v).chkAcc = v := rfl
@[simp] theorem State.setChkAcc_ill (s : State) (v : Byte) : (s.setChkAcc v).ill = s.ill := rfl
@[simp] theorem State.setChkAcc_rx (s : State) (v : Byte) : (s.setChkAcc v).rx = s.rx := rfl
@[simp] theorem State.setChkAcc_tx (s : State) (v : Byte) : (s.setChkAcc v).tx = s.tx := rfl
@[simp] theorem State.setChkAcc_arq (s : State) (v : Byte) : (s.setChkAcc v).arq = s.arq := rfl
@[simp] theorem State.setChkAcc_cfg (s : State) (v : Byte) : (s.setChkAcc v).cfg = s.cfg := rfl
@[simp] theorem State.setChkAcc_inputs (s : State) (v : Byte) : (s.setChkAcc v).inputs = s.inputs := rfl
@[simp] theorem State.setChkAcc_out (s : State) (v : Byte) : (s.setChkAcc v).out = s.out := rfl

@[simp] theorem State.setIll_chkAcc (s : State) (v : Bool) : (s.setIll v).chkAcc = s.chkAcc := rfl
@[simp] theorem State.setIll_ill (s : State) (v : Bool) : (s.setIll v).ill = v := rfl
@[simp] theorem State.setIll_rx (s : State) (v : Bool) : (s.setIll v).rx = s.rx := rfl
@[simp] theorem State.setIll_tx (s : State) (v : Bool) : (s.setIll v).tx = s.tx := rfl
@[simp] theorem State.setIll_arq (s : State) (v : Bool) : (s.setIll v).arq = s.arq := rfl
@[simp] theorem State.setIll_cfg (s : State) (v : Bool) : (s.setIll v).cfg = s.cfg := rfl
@[simp] theorem State.setIll_inputs (s : State) (v : Bool) : (s.setIll v).inputs = s.inputs := rfl
@[simp] theorem State.setIll_out (s : State) (v : Bool) : (s.setIll v).out = s.out := rfl

@[simp] theorem State.setRx_chkAcc (s : State) (v : RxUnit) : (s.setRx v).chkAcc = s.chkAcc := rfl
@[simp] theorem State.setRx_ill (s : State) (v : RxUnit) : (s.setRx v).ill = s.ill := rfl
@[simp] theorem State.setRx_rx (s : State) (v : RxUnit) : (s.setRx v).rx = v := rfl
@[simp] theorem State.setRx_tx (s : State) (v : RxUnit) : (s.setRx v).tx = s.tx := rfl
@[simp] theorem State.setRx_arq (s : State) (v : RxUnit) : (s.setRx v).arq = s.arq := rfl
@[simp] theorem State.setRx_cfg (s : State) (v : RxUnit) : (s.setRx v).cfg = s.cfg := rfl
@[simp] theorem State.setRx_inputs (s : State) (v : RxUnit) : (s.setRx v).inputs = s.inputs := rfl
@[simp] theorem State.setRx_out (s : State) (v : RxUnit) : (s.setRx v).out = s.out := rfl

@[simp] theorem State.setTx_chkAcc (s : State) (v : TxUnit) : (s.setTx v).chkAcc = s.chkAcc := rfl
@[simp] theorem State.setTx_ill (s : State) (v : TxUnit) : (s.setTx v).ill = s.ill := rfl
@[simp] theorem State.setTx_rx (s : State) (v : TxUnit) : (s.setTx v).rx = s.rx := rfl
@[simp] theorem State.setTx_tx (s : State) (v : TxUnit) : (s.setTx v).tx = v := rfl
@[simp] theorem State.setTx_arq (s : State) (v : TxUnit) : (s.setTx v).arq = s.arq := rfl
@[simp] theorem State.setTx_cfg (s : State) (v : TxUnit) : (s.setTx v).cfg = s.cfg := rfl
@[simp] theorem State.setTx_inputs (s : State) (v : TxUnit) : (s.setTx v).inputs = s.inputs := rfl
@[simp] theorem State.setTx_out (s : State) (v : TxUnit) : (s.setTx v).out = s.out := rfl

@[simp] theorem State.setArq_chkAcc (s : State) (v : ArqUnit) : (s.setArq v).chkAcc = s.chkAcc := rfl
@[simp] theorem State.setArq_ill (s : State) (v : ArqUnit) : (s.setArq v).ill = s.ill := rfl
@[simp] theorem State.setArq_rx (s : State) (v : ArqUnit) : (s.setArq v).rx = s.rx := rfl
@[simp] theorem State.setArq_tx (s : State) (v : ArqUnit) : (s.setArq v).tx = s.tx := rfl
@[simp] theorem State.setArq_arq (s : State) (v : ArqUnit) : (s.setArq v).arq = v := rfl
@[simp] theorem State.setArq_cfg (s : State) (v : ArqUnit) : (s.setArq v).cfg = s.cfg := rfl
@[simp] theorem State.setArq_inputs (s : State) (v : ArqUnit) : (s.setArq v).inputs = s.inputs := rfl
@[simp] theorem State.setArq_out (s : State) (v : ArqUnit) : (s.setArq v).out = s.out := rfl

@[simp] theorem State.setInputs_chkAcc (s : State) (v : List CycleInput) : (s.setInputs v).chkAcc = s.chkAcc := rfl
@[simp] theorem State.setInputs_ill (s : State) (v : List CycleInput) : (s.setInputs v).ill = s.ill := rfl
@[simp] theorem State.setInputs_rx (s : State) (v : List CycleInput) : (s.setInputs v).rx = s.rx := rfl
@[simp] theorem State.setInputs_tx (s : State) (v : List CycleInput) : (s.setInputs v).tx = s.tx := rfl
@[simp] theorem State.setInputs_arq (s : State) (v : List CycleInput) : (s.setInputs v).arq = s.arq := rfl
@[simp] theorem State.setInputs_cfg (s : State) (v : List CycleInput) : (s.setInputs v).cfg = s.cfg := rfl
@[simp] theorem State.setInputs_inputs (s : State) (v : List CycleInput) : (s.setInputs v).inputs = v := rfl
@[simp] theorem State.setInputs_out (s : State) (v : List CycleInput) : (s.setInputs v).out = s.out := rfl

@[simp] theorem State.setOut_chkAcc (s : State) (v : Outputs) : (s.setOut v).chkAcc = s.chkAcc := rfl
@[simp] theorem State.setOut_ill (s : State) (v : Outputs) : (s.setOut v).ill = s.ill := rfl
@[simp] theorem State.setOut_rx (s : State) (v : Outputs) : (s.setOut v).rx = s.rx := rfl
@[simp] theorem State.setOut_tx (s : State) (v : Outputs) : (s.setOut v).tx = s.tx := rfl
@[simp] theorem State.setOut_arq (s : State) (v : Outputs) : (s.setOut v).arq = s.arq := rfl
@[simp] theorem State.setOut_cfg (s : State) (v : Outputs) : (s.setOut v).cfg = s.cfg := rfl
@[simp] theorem State.setOut_inputs (s : State) (v : Outputs) : (s.setOut v).inputs = s.inputs := rfl
@[simp] theorem State.setOut_out (s : State) (v : Outputs) : (s.setOut v).out = v := rfl

/-! ### The compound updates -/

@[simp] theorem State.respond_chkAcc (s : State) (v : Word) : (s.respond v).chkAcc = s.chkAcc := rfl
@[simp] theorem State.respond_ill (s : State) (v : Word) : (s.respond v).ill = s.ill := rfl
@[simp] theorem State.respond_rx (s : State) (v : Word) : (s.respond v).rx = s.rx := rfl
@[simp] theorem State.respond_tx (s : State) (v : Word) : (s.respond v).tx = s.tx := rfl
@[simp] theorem State.respond_arq (s : State) (v : Word) : (s.respond v).arq = s.arq := rfl
@[simp] theorem State.respond_cfg (s : State) (v : Word) : (s.respond v).cfg = s.cfg := rfl
@[simp] theorem State.respond_inputs (s : State) (v : Word) : (s.respond v).inputs = s.inputs := rfl
@[simp] theorem State.respond_out (s : State) (v : Word) : (s.respond v).out = Outputs.response v := rfl

@[simp] theorem State.emit_chkAcc (s : State) (e : Option Emission) : (s.emit e).chkAcc = s.chkAcc := rfl
@[simp] theorem State.emit_ill (s : State) (e : Option Emission) : (s.emit e).ill = s.ill := rfl
@[simp] theorem State.emit_rx (s : State) (e : Option Emission) : (s.emit e).rx = s.rx := rfl
@[simp] theorem State.emit_tx (s : State) (e : Option Emission) : (s.emit e).tx = s.tx := rfl
@[simp] theorem State.emit_arq (s : State) (e : Option Emission) : (s.emit e).arq = s.arq := rfl
@[simp] theorem State.emit_cfg (s : State) (e : Option Emission) : (s.emit e).cfg = s.cfg := rfl
@[simp] theorem State.emit_inputs (s : State) (e : Option Emission) : (s.emit e).inputs = s.inputs := rfl
@[simp] theorem State.emit_out (s : State) (e : Option Emission) : (s.emit e).out = s.out.emit e := rfl

@[simp] theorem raiseIllegal_chkAcc (s : State) : (raiseIllegal s).chkAcc = s.chkAcc := rfl
@[simp] theorem raiseIllegal_ill (s : State) : (raiseIllegal s).ill = true := rfl
@[simp] theorem raiseIllegal_rx (s : State) : (raiseIllegal s).rx = s.rx := rfl
@[simp] theorem raiseIllegal_tx (s : State) : (raiseIllegal s).tx = s.tx := rfl
@[simp] theorem raiseIllegal_arq (s : State) : (raiseIllegal s).arq = s.arq := rfl
@[simp] theorem raiseIllegal_cfg (s : State) : (raiseIllegal s).cfg = s.cfg := rfl
@[simp] theorem raiseIllegal_inputs (s : State) : (raiseIllegal s).inputs = s.inputs := rfl
@[simp] theorem raiseIllegal_out (s : State) : (raiseIllegal s).out = Outputs.illegal := rfl

@[simp] theorem clearIllegal_chkAcc (s : State) : (clearIllegal s).chkAcc = s.chkAcc := rfl
@[simp] theorem clearIllegal_ill (s : State) : (clearIllegal s).ill = false := rfl
@[simp] theorem clearIllegal_rx (s : State) : (clearIllegal s).rx = s.rx := rfl
@[simp] theorem clearIllegal_tx (s : State) : (clearIllegal s).tx = s.tx := rfl
@[simp] theorem clearIllegal_arq (s : State) : (clearIllegal s).arq = s.arq := rfl
@[simp] theorem clearIllegal_cfg (s : State) : (clearIllegal s).cfg = s.cfg := rfl
@[simp] theorem clearIllegal_inputs (s : State) : (clearIllegal s).inputs = s.inputs := rfl
@[simp] theorem clearIllegal_out (s : State) : (clearIllegal s).out = s.out := rfl

@[simp] theorem resetState_chkAcc (s : State) : (resetState s).chkAcc = 0x00 := rfl
@[simp] theorem resetState_ill (s : State) : (resetState s).ill = false := rfl
@[simp] theorem resetState_rx (s : State) : (resetState s).rx = rxSessionReset s.rx := rfl
@[simp] theorem resetState_tx (s : State) : (resetState s).tx = txSessionReset s.tx := rfl
@[simp] theorem resetState_arq (s : State) : (resetState s).arq = ArqUnit.initial := rfl
@[simp] theorem resetState_cfg (s : State) : (resetState s).cfg = s.cfg := rfl
@[simp] theorem resetState_inputs (s : State) : (resetState s).inputs = s.inputs := rfl
@[simp] theorem resetState_out (s : State) : (resetState s).out = Outputs.zero := rfl

@[simp] theorem State.emitAfterCommand_chkAcc (s : State) (e : Option Emission) : (s.emitAfterCommand e).chkAcc = s.chkAcc := by
  unfold State.emitAfterCommand; split <;> rfl
@[simp] theorem State.emitAfterCommand_ill (s : State) (e : Option Emission) : (s.emitAfterCommand e).ill = s.ill := by
  unfold State.emitAfterCommand; split <;> rfl
@[simp] theorem State.emitAfterCommand_rx (s : State) (e : Option Emission) : (s.emitAfterCommand e).rx = s.rx := by
  unfold State.emitAfterCommand; split <;> rfl
@[simp] theorem State.emitAfterCommand_tx (s : State) (e : Option Emission) : (s.emitAfterCommand e).tx = s.tx := by
  unfold State.emitAfterCommand; split <;> rfl
@[simp] theorem State.emitAfterCommand_arq (s : State) (e : Option Emission) : (s.emitAfterCommand e).arq = s.arq := by
  unfold State.emitAfterCommand; split <;> rfl
@[simp] theorem State.emitAfterCommand_cfg (s : State) (e : Option Emission) : (s.emitAfterCommand e).cfg = s.cfg := by
  unfold State.emitAfterCommand; split <;> rfl
@[simp] theorem State.emitAfterCommand_inputs (s : State) (e : Option Emission) : (s.emitAfterCommand e).inputs = s.inputs := by
  unfold State.emitAfterCommand; split <;> rfl

/-- The tick's emission reaches txo exactly when the command left it free. -/
theorem State.emitAfterCommand_out (s : State) (e : Option Emission) :
    (s.emitAfterCommand e).out = if s.out.txoValid then s.out else s.out.emit e := by
  unfold State.emitAfterCommand; split <;> rfl

/-! ### The fields of outputs and sessions -/

@[simp] theorem Outputs.emit_none (o : Outputs) : o.emit none = o := rfl
@[simp] theorem Outputs.emit_some (o : Outputs) (e : Emission) :
    o.emit (some e) = { o with txoValid := true, txoData := e.data, txoFinal := e.final } := rfl
@[simp] theorem Outputs.response_respValid (v : Word) : (Outputs.response v).respValid = true := rfl
@[simp] theorem Outputs.response_respIll (v : Word) : (Outputs.response v).respIll = false := rfl
@[simp] theorem Outputs.response_resp (v : Word) : (Outputs.response v).resp = v := rfl
@[simp] theorem Outputs.response_txoValid (v : Word) : (Outputs.response v).txoValid = false := rfl
@[simp] theorem Outputs.response_txoData (v : Word) : (Outputs.response v).txoData = 0 := rfl
@[simp] theorem Outputs.response_txoFinal (v : Word) : (Outputs.response v).txoFinal = false := rfl
@[simp] theorem Outputs.illegal_respValid : Outputs.illegal.respValid = true := rfl
@[simp] theorem Outputs.illegal_respIll : Outputs.illegal.respIll = true := rfl
@[simp] theorem Outputs.illegal_resp : Outputs.illegal.resp = 0 := rfl
@[simp] theorem Outputs.illegal_txoValid : Outputs.illegal.txoValid = false := rfl
@[simp] theorem Outputs.illegal_txoData : Outputs.illegal.txoData = 0 := rfl
@[simp] theorem Outputs.illegal_txoFinal : Outputs.illegal.txoFinal = false := rfl
@[simp] theorem Outputs.zero_respValid : Outputs.zero.respValid = false := rfl
@[simp] theorem Outputs.zero_respIll : Outputs.zero.respIll = false := rfl
@[simp] theorem Outputs.zero_resp : Outputs.zero.resp = 0 := rfl
@[simp] theorem Outputs.zero_txoValid : Outputs.zero.txoValid = false := rfl
@[simp] theorem Outputs.zero_txoData : Outputs.zero.txoData = 0 := rfl
@[simp] theorem Outputs.zero_txoFinal : Outputs.zero.txoFinal = false := rfl

@[simp] theorem rxSessionReset_state (rx : RxUnit) : (rxSessionReset rx).state = .waitStx := rfl
@[simp] theorem rxSessionReset_err (rx : RxUnit) : (rxSessionReset rx).err = .none := rfl
@[simp] theorem rxSessionReset_len (rx : RxUnit) : (rxSessionReset rx).len = 0 := rfl
@[simp] theorem rxSessionReset_count (rx : RxUnit) : (rxSessionReset rx).count = 0 := rfl
@[simp] theorem rxSessionReset_chk (rx : RxUnit) : (rxSessionReset rx).chk = 0 := rfl
@[simp] theorem rxSessionReset_buf (rx : RxUnit) : (rxSessionReset rx).buf = rx.buf := rfl
@[simp] theorem txSessionReset_state (tx : TxUnit) : (txSessionReset tx).state = .idle := rfl
@[simp] theorem txSessionReset_err (tx : TxUnit) : (txSessionReset tx).err = .none := rfl
@[simp] theorem txSessionReset_len (tx : TxUnit) : (txSessionReset tx).len = 0 := rfl
@[simp] theorem txSessionReset_cursor (tx : TxUnit) : (txSessionReset tx).cursor = 0 := rfl
@[simp] theorem txSessionReset_chk (tx : TxUnit) : (txSessionReset tx).chk = 0 := rfl
@[simp] theorem txSessionReset_buf (tx : TxUnit) : (txSessionReset tx).buf = tx.buf := rfl
@[simp] theorem ArqUnit.initial_state : ArqUnit.initial.state = .idle := rfl
@[simp] theorem ArqUnit.initial_attempts : ArqUnit.initial.attempts = 0 := rfl
@[simp] theorem ArqUnit.initial_timer : ArqUnit.initial.timer = 0 := rfl

@[simp] theorem State.buffer_txbuf (s : State) : s.buffer .txbuf = s.tx.buf := rfl
@[simp] theorem State.buffer_rxbuf (s : State) : s.buffer .rxbuf = s.rx.buf := rfl

end Sys2Proof.Machine
end

