-- ==== Sys2Proof/Laws/Memory.lean ====
section
/-! SUPPORT. The laws of the byte buffers: a read after a write, what a write leaves alone, and that a write keeps the
canonical form. -/

namespace Sys2Proof.Machine

@[simp] theorem Memory.load_nil (i : Nat) : Memory.load [] i = none := rfl

@[simp] theorem Memory.load_store_same (m : Memory) (i : Nat) (v : Byte) :
    Memory.load (Memory.store m i v) i = some v := by
  induction m with
  | nil => simp [Memory.store, Memory.load]
  | cons e m ih =>
    obtain ⟨k, x⟩ := e
    unfold Memory.store
    split
    · simp [Memory.load]
    · split
      · simp [Memory.load]
      · rename_i h
        simpa [Memory.load, Ne.symm h] using ih

theorem Memory.load_store_other (m : Memory) {i j : Nat} (v : Byte) (h : j ≠ i) :
    Memory.load (Memory.store m i v) j = Memory.load m j := by
  induction m with
  | nil => simp [Memory.store, Memory.load, h.symm]
  | cons e m ih =>
    obtain ⟨k, x⟩ := e
    unfold Memory.store
    split
    · simp [Memory.load, h.symm]
    · split
      · rename_i hk
        subst hk
        simp [Memory.load, h.symm]
      · simp only [Memory.load, ih]

theorem Memory.store_store (m : Memory) (i : Nat) (v w : Byte) :
    Memory.store (Memory.store m i v) i w = Memory.store m i w := by
  induction m with
  | nil => simp [Memory.store]
  | cons e m ih =>
    obtain ⟨k, x⟩ := e
    by_cases h1 : i < k
    · simp [Memory.store, h1]
    · by_cases h2 : i = k
      · subst h2
        simp [Memory.store]
      · simp [Memory.store, h1, h2, ih]

@[simp] theorem Memory.byteAt_store_same (sp : Space) (m : Memory) (i : Nat) (v : Byte) :
    Memory.byteAt sp (Memory.store m i v) i = v := by
  simp [Memory.byteAt]

theorem Memory.byteAt_store_other (sp : Space) (m : Memory) {i j : Nat} (v : Byte) (h : j ≠ i) :
    Memory.byteAt sp (Memory.store m i v) j = Memory.byteAt sp m j := by
  simp [Memory.byteAt, Memory.load_store_other m v h]

/-! ### The canonical form -/

theorem Memory.above_store {m : Memory} {b i : Nat} (v : Byte) (hb : b < i) (h : Memory.above b m = true) :
    Memory.above b (Memory.store m i v) = true := by
  induction m with
  | nil => simp [Memory.store, Memory.above, hb]
  | cons e m ih =>
    obtain ⟨k, x⟩ := e
    simp only [Memory.above, Bool.and_eq_true, decide_eq_true_eq] at h
    unfold Memory.store
    split
    · simp [Memory.above, hb, h.1, h.2]
    · split
      · simp [Memory.above, hb, h.2]
      · simp [Memory.above, h.1, ih h.2]

theorem Memory.above_of_lt {m : Memory} {a b : Nat} (hab : a < b) (h : Memory.above b m = true) :
    Memory.above a m = true := by
  induction m with
  | nil => rfl
  | cons e m ih =>
    obtain ⟨k, x⟩ := e
    simp only [Memory.above, Bool.and_eq_true, decide_eq_true_eq] at h ⊢
    exact ⟨by omega, ih h.2⟩

/-- A write keeps the canonical form. -/
theorem Memory.wf_store {m : Memory} (i : Nat) (v : Byte) (h : Memory.wf m = true) :
    Memory.wf (Memory.store m i v) = true := by
  induction m with
  | nil => simp [Memory.store, Memory.wf, Memory.above]
  | cons e m ih =>
    obtain ⟨k, x⟩ := e
    simp only [Memory.wf, Bool.and_eq_true] at h
    unfold Memory.store
    split
    · rename_i hk
      simp [Memory.wf, Memory.above, hk, h.1, h.2, Memory.above_of_lt hk h.1]
    · split
      · rename_i hk
        subst hk
        simp [Memory.wf, h.1, h.2]
      · rename_i h1 h2
        simp [Memory.wf, ih h.2, Memory.above_store v (by omega : k < i) h.1]

/-- A write inside the buffer keeps every index inside the buffer. -/
theorem Memory.inside_store {m : Memory} {cap i : Nat} (v : Byte) (hi : i < cap) (h : Memory.inside cap m = true) :
    Memory.inside cap (Memory.store m i v) = true := by
  induction m with
  | nil => simp [Memory.store, Memory.inside, hi]
  | cons e m ih =>
    obtain ⟨k, x⟩ := e
    simp only [Memory.inside, Bool.and_eq_true, decide_eq_true_eq] at h
    unfold Memory.store
    split
    · simp [Memory.inside, hi, h.1, h.2]
    · split
      · simp [Memory.inside, hi, h.2]
      · simp [Memory.inside, h.1, ih h.2]

theorem Memory.load_eq_none_of_above {m : Memory} {b i : Nat} (hi : i ≤ b) (h : Memory.above b m = true) :
    Memory.load m i = none := by
  induction m with
  | nil => rfl
  | cons e m ih =>
    obtain ⟨k, x⟩ := e
    simp only [Memory.above, Bool.and_eq_true, decide_eq_true_eq] at h
    have : k ≠ i := by omega
    simp [Memory.load, this, ih h.2]

/-- Two buffers in canonical form that hold the same written bytes are the same data. -/
theorem Memory.ext_of_wf {m n : Memory} (hm : Memory.wf m = true) (hn : Memory.wf n = true)
    (h : ∀ i, Memory.load m i = Memory.load n i) : m = n := by
  induction m generalizing n with
  | nil =>
    cases n with
    | nil => rfl
    | cons e n => simpa [Memory.load] using h e.1
  | cons e m ih =>
    obtain ⟨k, x⟩ := e
    cases n with
    | nil => simpa [Memory.load] using h k
    | cons f n =>
      obtain ⟨l, y⟩ := f
      simp only [Memory.wf, Bool.and_eq_true] at hm hn
      have hkl : k = l := by
        rcases lt_trichotomy k l with hlt | heq | hgt
        · have e1 := h k
          rw [Memory.load, if_pos rfl, Memory.load, if_neg (by omega : ¬ l = k),
            Memory.load_eq_none_of_above hlt.le hn.1] at e1
          cases e1
        · exact heq
        · have e1 := h l
          rw [Memory.load, if_neg (by omega : ¬ k = l), Memory.load_eq_none_of_above hgt.le hm.1, Memory.load,
            if_pos rfl] at e1
          cases e1
      subst hkl
      have hxy : x = y := by simpa [Memory.load] using h k
      subst hxy
      rw [ih hm.2 hn.2 fun i => ?_]
      by_cases hi : k = i
      · subst hi
        rw [Memory.load_eq_none_of_above le_rfl hm.1, Memory.load_eq_none_of_above le_rfl hn.1]
      · simpa [Memory.load, hi] using h i

/-! ### Slices -/

@[simp] theorem Memory.slice_zero (sp : Space) (m : Memory) : Memory.slice sp m 0 = [] := rfl

theorem Memory.slice_succ (sp : Space) (m : Memory) (n : Nat) :
    Memory.slice sp m (n + 1) = Memory.slice sp m n ++ [Memory.byteAt sp m n] := by
  simp [Memory.slice, List.range_succ]

@[simp] theorem Memory.slice_length (sp : Space) (m : Memory) (n : Nat) : (Memory.slice sp m n).length = n := by
  simp [Memory.slice]

theorem Memory.slice_getElem (sp : Space) (m : Memory) (n i : Nat) (h : i < (Memory.slice sp m n).length) :
    (Memory.slice sp m n)[i] = Memory.byteAt sp m i := by
  simp [Memory.slice]

/-- A write at or above `n` leaves the first `n` bytes alone. -/
theorem Memory.slice_store_of_le (sp : Space) (m : Memory) {n i : Nat} (v : Byte) (h : n ≤ i) :
    Memory.slice sp (Memory.store m i v) n = Memory.slice sp m n := by
  refine List.map_congr_left fun j hj => ?_
  have : j < n := List.mem_range.mp hj
  exact Memory.byteAt_store_other sp m v (by omega)

/-- The first `n` bytes and the byte written after them. -/
theorem Memory.slice_store_self (sp : Space) (m : Memory) (n : Nat) (v : Byte) :
    Memory.slice sp (Memory.store m n v) (n + 1) = Memory.slice sp m n ++ [v] := by
  rw [Memory.slice_succ, Memory.slice_store_of_le sp m v le_rfl, Memory.byteAt_store_same]

/-- A slice is the only list of its length with those bytes. -/
theorem Memory.slice_eq_of_bytes {sp : Space} {m : Memory} {p : List Byte}
    (h : ∀ i (hi : i < p.length), Memory.byteAt sp m i = p[i]) : Memory.slice sp m p.length = p := by
  apply List.ext_getElem (by simp)
  intro i h1 h2
  rw [Memory.slice_getElem]
  exact h i h2

/-! ### Reads through a state -/

theorem memRead_of_lt {sp : Space} {i : Nat} {s : State} (h : i < s.cfg.maxPayload.toNat) :
    memRead sp i s = some (Memory.byteAt sp (s.buffer sp) i) := by
  simp [memRead, h]

theorem memRead_eq_some {sp : Space} {i : Nat} {s : State} {v : Byte} :
    memRead sp i s = some v ↔ i < s.cfg.maxPayload.toNat ∧ Memory.byteAt sp (s.buffer sp) i = v := by
  unfold memRead
  split <;> simp_all

theorem memRead_eq_none {sp : Space} {i : Nat} {s : State} :
    memRead sp i s = none ↔ s.cfg.maxPayload.toNat ≤ i := by
  unfold memRead
  split <;> simp_all

end Sys2Proof.Machine
end

