-- ==== Sys2Proof/Laws/Ops.lean ====
section
/-! SUPPORT. One lemma for each shared operation of the units that says once everything it can do; a proof cites it
and does not unfold the operation. -/

namespace Sys2Proof.Machine

/-! ### The receiver -/

/-- Everything one byte can do to the receiver (41_receiver.md R120 to R127). -/
theorem rxFeed_cases (c : Config) (b : Byte) (rx : RxUnit) :
    (rx.state = .waitStx ∧ rxFeed c b rx = rxFeedWaitStx c b rx) ∨
    (rx.state = .waitLen ∧ rxFeed c b rx = rxFeedWaitLen c b rx) ∨
    (rx.state = .readData ∧ rxFeed c b rx = rxFeedReadData c b rx) ∨
    (rx.state = .checkChk ∧ rxFeed c b rx = rxFeedCheckChk b rx) ∨
    (rx.state = .waitEtx ∧ rxFeed c b rx = rxFeedWaitEtx c b rx) ∨
    ((rx.state = .done ∨ rx.state = .error) ∧ rxFeed c b rx = rxFeedTerminal c b rx) := by
  unfold rxFeed
  cases rx.state <;> simp

theorem rxFeed_of_waitStx {c : Config} {b : Byte} {rx : RxUnit} (h : rx.state = .waitStx) :
    rxFeed c b rx = rxFeedWaitStx c b rx := by unfold rxFeed; rw [h]
theorem rxFeed_of_waitLen {c : Config} {b : Byte} {rx : RxUnit} (h : rx.state = .waitLen) :
    rxFeed c b rx = rxFeedWaitLen c b rx := by unfold rxFeed; rw [h]
theorem rxFeed_of_readData {c : Config} {b : Byte} {rx : RxUnit} (h : rx.state = .readData) :
    rxFeed c b rx = rxFeedReadData c b rx := by unfold rxFeed; rw [h]
theorem rxFeed_of_checkChk {c : Config} {b : Byte} {rx : RxUnit} (h : rx.state = .checkChk) :
    rxFeed c b rx = rxFeedCheckChk b rx := by unfold rxFeed; rw [h]
theorem rxFeed_of_waitEtx {c : Config} {b : Byte} {rx : RxUnit} (h : rx.state = .waitEtx) :
    rxFeed c b rx = rxFeedWaitEtx c b rx := by unfold rxFeed; rw [h]
theorem rxFeed_of_done {c : Config} {b : Byte} {rx : RxUnit} (h : rx.state = .done) :
    rxFeed c b rx = rxFeedTerminal c b rx := by unfold rxFeed; rw [h]
theorem rxFeed_of_error {c : Config} {b : Byte} {rx : RxUnit} (h : rx.state = .error) :
    rxFeed c b rx = rxFeedTerminal c b rx := by unfold rxFeed; rw [h]

/-- What a byte does to RXBUF: nothing, or one write at rx_count in ReadData within both bounds. -/
theorem rxFeed_buf (c : Config) (b : Byte) (rx : RxUnit) :
    (rxFeed c b rx).buf =
      if rx.state = .readData ∧ rx.count.toNat < rx.len.toNat ∧ rx.count.toNat < c.maxPayload.toNat then
        Memory.store rx.buf rx.count.toNat b
      else rx.buf := by
  rcases rxFeed_cases c b rx with ⟨h, e⟩ | ⟨h, e⟩ | ⟨h, e⟩ | ⟨h, e⟩ | ⟨h, e⟩ | ⟨h, e⟩ <;> rw [e]
  · simp only [rxFeedWaitStx, h]
    split <;> simp
  · simp only [rxFeedWaitLen, h]
    split
    · simp
    · split <;> simp
  · unfold rxFeedReadData
    by_cases hb : rx.len.toNat ≤ rx.count.toNat ∨ c.maxPayload.toNat ≤ rx.count.toNat
    · rw [if_pos hb, if_neg (by omega)]
    · have hp : rx.state = .readData ∧ rx.count.toNat < rx.len.toNat ∧ rx.count.toNat < c.maxPayload.toNat :=
        ⟨h, by omega, by omega⟩
      rw [if_neg hb, if_pos hp]
  · simp only [rxFeedCheckChk, h]
    split <;> simp
  · simp only [rxFeedWaitEtx, h]
    split <;> simp
  · have hn : rx.state ≠ .readData := by rcases h with h | h <;> rw [h] <;> decide
    rw [if_neg fun h' => hn h'.1]
    unfold rxFeedTerminal rxFeedWaitStx
    split
    · split <;> rfl
    · rfl

/-! ### The transmitter -/

/-- tx_begin above the capacity (42_transmitter.md R155). -/
theorem txBegin_of_gt {c : Config} {n : Index} {tx : TxUnit} (h : c.maxPayload.toNat < n.toNat) :
    txBegin c n tx = { state := .error, err := .overflow, len := 0, cursor := 0, chk := 0, buf := tx.buf } := by
  simp [txBegin, h, txSessionReset]

/-- tx_begin within the capacity (42_transmitter.md R155). -/
theorem txBegin_of_le {c : Config} {n : Index} {tx : TxUnit} (h : n.toNat ≤ c.maxPayload.toNat) :
    txBegin c n tx =
      { state := .sendStx, err := .none, len := n.setWidth 8, cursor := 0,
        chk := fold c.stx (n.setWidth 8 :: Memory.slice .txbuf tx.buf n.toNat), buf := tx.buf } := by
  simp [txBegin, Nat.not_lt.mpr h, txSessionReset]

@[simp] theorem txBegin_buf (c : Config) (n : Index) (tx : TxUnit) : (txBegin c n tx).buf = tx.buf := by
  unfold txBegin
  split <;> rfl

/-- Everything tx_next can do (42_transmitter.md R157 to R159). -/
theorem txNext_cases {c : Config} {tx tx' : TxUnit} {e : Option Emission} (h : txNext c tx = .ok (tx', e)) :
    (tx.state = .sendStx ∧ tx' = { tx with state := .sendLen } ∧ e = some { data := c.stx, final := false }) ∨
    (tx.state = .sendLen ∧ tx' = { tx with state := if tx.len = 0 then .sendChk else .sendData } ∧
      e = some { data := tx.len, final := false }) ∨
    (tx.state = .sendData ∧ tx.cursor.toNat < c.maxPayload.toNat ∧
      tx' = { tx with
        cursor := tx.cursor + 1
        state := if tx.cursor + 1 = tx.len then .sendChk else .sendData } ∧
      e = some { data := Memory.byteAt .txbuf tx.buf tx.cursor.toNat, final := false }) ∨
    (tx.state = .sendChk ∧ tx' = { tx with state := .sendEtx } ∧ e = some { data := tx.chk, final := false }) ∨
    (tx.state = .sendEtx ∧ tx' = { tx with state := .done } ∧ e = some { data := c.etx, final := true }) ∨
    ((tx.state = .idle ∨ tx.state = .done ∨ tx.state = .error) ∧ tx' = tx ∧ e = none) := by
  unfold txNext at h
  split at h <;> rename_i hs
  case h_3 =>
    split at h
    · rename_i hc
      simp only [Except.ok.injEq, Prod.mk.injEq] at h
      simp [hs, hc, ← h.1, ← h.2]
    · simp at h
  all_goals
    simp only [Except.ok.injEq, Prod.mk.injEq] at h
    simp [hs, ← h.1, ← h.2]

/-- tx_next stops only in SendData with a cursor that TXBUF does not have (log 7). -/
theorem txNext_eq_error {c : Config} {tx : TxUnit} {f : Fault} :
    txNext c tx = .error f ↔ f = .txbufRange ∧ tx.state = .sendData ∧ c.maxPayload.toNat ≤ tx.cursor.toNat := by
  unfold txNext
  split <;> rename_i hs
  case h_3 =>
    split <;> rename_i hc
    · simp [hs]; omega
    · simp [hs, eq_comm]; omega
  all_goals simp [hs]

theorem txNext_buf {c : Config} {tx tx' : TxUnit} {e : Option Emission} (h : txNext c tx = .ok (tx', e)) :
    tx'.buf = tx.buf := by
  rcases txNext_cases h with ⟨-, rfl, -⟩ | ⟨-, rfl, -⟩ | ⟨-, -, rfl, -⟩ | ⟨-, rfl, -⟩ | ⟨-, rfl, -⟩ | ⟨-, rfl, -⟩ <;> rfl

/-! ### The ARQ controller -/

/-- Everything a NAK or a timeout can do (43_arq.md R183). -/
theorem nakEvent_cases (s : State) :
    ((s.arq.attempts + 1).toNat < s.cfg.retryBudget.toNat ∧
      nakEvent s = (s.setTx (txBegin s.cfg (s.tx.len.setWidth 9) s.tx)).setArq
        { s.arq with attempts := s.arq.attempts + 1, state := .sending }) ∨
    (s.cfg.retryBudget.toNat ≤ (s.arq.attempts + 1).toNat ∧
      nakEvent s = s.setArq { s.arq with attempts := s.arq.attempts + 1, state := .exhausted }) := by
  unfold nakEvent
  split
  · rename_i h; exact .inl ⟨h, rfl⟩
  · rename_i h; exact .inr ⟨by omega, rfl⟩

/-- Everything an acknowledgement byte can do (43_arq.md R184). -/
theorem acknowledge_cases (d : Byte) (s : State) :
    (s.arq.state = .waitAck ∧ d = s.cfg.ack ∧ acknowledge d s = s.setArq { s.arq with state := .acked }) ∨
    (s.arq.state = .waitAck ∧ d ≠ s.cfg.ack ∧ d = s.cfg.nak ∧ acknowledge d s = nakEvent s) ∨
    ((s.arq.state = .waitAck → d ≠ s.cfg.ack ∧ d ≠ s.cfg.nak) ∧ acknowledge d s = s) := by
  unfold acknowledge
  split
  · rename_i h
    split
    · rename_i h1; exact .inl ⟨h, h1, rfl⟩
    · rename_i h1
      split
      · rename_i h2; exact .inr (.inl ⟨h, h1, h2, rfl⟩)
      · rename_i h2; exact .inr (.inr ⟨fun _ => ⟨h1, h2⟩, rfl⟩)
  · rename_i h; exact .inr (.inr ⟨fun h' => absurd h' h, rfl⟩)

/-- Everything the tick can do (43_arq.md R189 to R191). -/
theorem arqTick_cases {ready : Bool} {s t : State} (h : arqTick ready s = .next t) :
    (s.arq.state = .sending ∧ ready = true ∧ ∃ tx e, txNext s.cfg s.tx = .ok (tx, e) ∧
      t = ((s.setTx tx).setArq (arqAfterEmission s.arq e)).emitAfterCommand e) ∨
    (s.arq.state = .sending ∧ ready = false ∧ t = s) ∨
    (s.arq.state = .waitAck ∧ s.cfg.ackTimeout = 0 ∧ t = s) ∨
    (s.arq.state = .waitAck ∧ s.cfg.ackTimeout ≠ 0 ∧ s.arq.timer + 1 = s.cfg.ackTimeout ∧
      t = nakEvent (s.setArq { s.arq with timer := s.arq.timer + 1 })) ∨
    (s.arq.state = .waitAck ∧ s.cfg.ackTimeout ≠ 0 ∧ s.arq.timer + 1 ≠ s.cfg.ackTimeout ∧
      t = s.setArq { s.arq with timer := s.arq.timer + 1 }) ∨
    (arqBusy s = false ∧ t = s) := by
  unfold arqTick at h
  split at h <;> rename_i hs
  case h_2 =>
    unfold tickSending at h
    cases ready
    · cases h
      exact .inr (.inl ⟨hs, rfl, rfl⟩)
    · simp only [if_true] at h
      split at h
      · rename_i tx e hx
        cases h
        exact .inl ⟨hs, rfl, tx, e, hx, rfl⟩
      · cases h
  case h_3 =>
    unfold tickWaitAck at h
    split at h
    · rename_i h0
      cases h
      exact .inr (.inr (.inl ⟨hs, h0, rfl⟩))
    · rename_i h0
      split at h
      · rename_i h1
        cases h
        exact .inr (.inr (.inr (.inl ⟨hs, h0, h1, rfl⟩)))
      · rename_i h1
        cases h
        exact .inr (.inr (.inr (.inr (.inl ⟨hs, h0, h1, rfl⟩))))
  all_goals
    cases h
    simp [arqBusy, ArqState.busy, hs]

/-- The tick stops only while SENDING with a ready sink, where tx_next stops. -/
theorem arqTick_eq_fault {ready : Bool} {s : State} {f : Fault} :
    arqTick ready s = .fault f ↔ s.arq.state = .sending ∧ ready = true ∧ txNext s.cfg s.tx = .error f := by
  unfold arqTick
  split <;> rename_i hs <;> simp only [hs, reduceCtorEq, false_and, true_and]
  unfold tickSending
  cases ready
  · simp
  · simp only [if_true, true_and]
    split <;> rename_i hx <;> simp [hx]

theorem arqTick_ne_refused {ready : Bool} {s : State} {r : Refusal} : arqTick ready s ≠ .refused r := by
  unfold arqTick tickSending
  split <;> (try split) <;> (try split) <;> simp

theorem nakEvent_buf (s : State) : (nakEvent s).tx.buf = s.tx.buf := by
  rcases nakEvent_cases s with ⟨-, e⟩ | ⟨-, e⟩ <;> rw [e] <;> simp

end Sys2Proof.Machine
end

