-- ==== Sys2Proof/Laws/Step.lean ====
section
/-! SUPPORT. What each command answers, equation by equation, and everything a step can do. -/

namespace Sys2Proof.Machine

/-! ### The commands -/

theorem exec_nop (s : State) : exec .nop s = .next (s.respond 0) := rfl
theorem exec_chkSeed (d : Byte) (s : State) :
    exec (.chkSeed d) s = .next ((s.setChkAcc d).respond (byteWord d)) := rfl
theorem exec_chkFold (d : Byte) (s : State) :
    exec (.chkFold d) s = .next ((s.setChkAcc (s.chkAcc ^^^ d)).respond (byteWord (s.chkAcc ^^^ d))) := rfl
theorem exec_rxFeed (d : Byte) (s : State) :
    exec (.rxFeed d) s = .next ((s.setRx (rxFeed s.cfg d s.rx)).respond (rxstat (rxFeed s.cfg d s.rx))) := rfl
theorem exec_rxReset (s : State) :
    exec .rxReset s = .next ((s.setRx (rxSessionReset s.rx)).respond (rxstat (rxSessionReset s.rx))) := rfl
theorem exec_ack (d : Byte) (s : State) :
    exec (.ack d) s = .next ((acknowledge d s).respond (arqstat (acknowledge d s).arq)) := rfl
theorem exec_arqAbort (s : State) :
    exec .arqAbort s = .next (((s.setTx (if arqBusy s then txSessionReset s.tx else s.tx)).setArq
      ArqUnit.initial).respond (arqstat ArqUnit.initial)) := rfl
theorem exec_clrIll (s : State) : exec .clrIll s = .next ((clearIllegal s).respond 0) := rfl
theorem exec_reserved (x : BitVec 28) (s : State) : exec (.reserved x) s = .next (raiseIllegal s) := rfl

theorem exec_txLoad (a : Index) (d : Byte) (s : State) :
    exec (.txLoad a d) s = .next (if loadIllegal a s then raiseIllegal s
      else (s.setTx { s.tx with buf := Memory.store s.tx.buf a.toNat d }).respond (txstat s.tx)) := by
  show execTxLoad a d s = _
  unfold execTxLoad; split <;> rfl

theorem exec_txBegin (a : Index) (s : State) :
    exec (.txBegin a) s = .next (if arqBusy s then raiseIllegal s
      else (s.setTx (txBegin s.cfg a s.tx)).respond (txstat (txBegin s.cfg a s.tx))) := by
  show execTxBegin a s = _
  unfold execTxBegin; split <;> rfl

theorem exec_txReset (s : State) :
    exec .txReset s = .next (if arqBusy s then raiseIllegal s
      else (s.setTx (txSessionReset s.tx)).respond (txstat (txSessionReset s.tx))) := by
  show execTxReset s = _
  unfold execTxReset; split <;> rfl

theorem exec_arqSend (a : Index) (s : State) :
    exec (.arqSend a) s = .next (if arqBusy s then raiseIllegal s
      else ((s.setTx (txBegin s.cfg a s.tx)).setArq (arqAfterSend (txBegin s.cfg a s.tx))).respond
        (arqstat (arqAfterSend (txBegin s.cfg a s.tx)))) := by
  show execArqSend a s = _
  unfold execArqSend; split <;> rfl

theorem exec_txNext_busy {s : State} (h : arqBusy s = true) : exec .txNext s = .next (raiseIllegal s) := by
  show execTxNext s = _
  simp [execTxNext, h]

theorem exec_txNext_ok {s : State} {tx : TxUnit} {e : Option Emission} (h : arqBusy s = false)
    (hx : txNext s.cfg s.tx = .ok (tx, e)) :
    exec .txNext s = .next (((s.setTx tx).respond (txnextWord tx e)).emit e) := by
  show execTxNext s = _
  simp [execTxNext, h, hx]

theorem exec_txNext_error {s : State} {f : Fault} (h : arqBusy s = false) (hx : txNext s.cfg s.tx = .error f) :
    exec .txNext s = .fault f := by
  show execTxNext s = _
  simp [execTxNext, h, hx]

/-- Everything TX_NEXT can do. -/
theorem exec_txNext_cases (s : State) :
    (arqBusy s = true ∧ exec .txNext s = .next (raiseIllegal s)) ∨
    (arqBusy s = false ∧ ∃ tx e, txNext s.cfg s.tx = .ok (tx, e) ∧
      exec .txNext s = .next (((s.setTx tx).respond (txnextWord tx e)).emit e)) ∨
    (arqBusy s = false ∧ txNext s.cfg s.tx = .error .txbufRange ∧ exec .txNext s = .fault .txbufRange) := by
  cases hb : arqBusy s
  · cases hx : txNext s.cfg s.tx with
    | ok r => exact .inr (.inl ⟨rfl, r.1, r.2, rfl, exec_txNext_ok hb hx⟩)
    | error f =>
      have hf := (txNext_eq_error.mp hx).1
      subst hf
      exact .inr (.inr ⟨rfl, rfl, exec_txNext_error hb hx⟩)
  · exact .inl ⟨rfl, exec_txNext_busy hb⟩

/-- Everything RX_READ can do. -/
theorem exec_rxRead_cases (a : Index) (s : State) :
    (s.rx.state = .done ∧ a.toNat < s.rx.len.toNat ∧ a.toNat < s.cfg.maxPayload.toNat ∧
      exec (.rxRead a) s = .next (s.respond (byteWord (Memory.byteAt .rxbuf s.rx.buf a.toNat)))) ∨
    (s.rx.state = .done ∧ a.toNat < s.rx.len.toNat ∧ s.cfg.maxPayload.toNat ≤ a.toNat ∧
      exec (.rxRead a) s = .fault .rxbufRange) ∨
    (¬ (s.rx.state = .done ∧ a.toNat < s.rx.len.toNat) ∧ exec (.rxRead a) s = .next (s.respond 0)) := by
  show (_ ∧ _ ∧ _ ∧ execRxRead a s = _) ∨ (_ ∧ _ ∧ _ ∧ execRxRead a s = _) ∨ (_ ∧ execRxRead a s = _)
  unfold execRxRead
  by_cases h : s.rx.state = .done ∧ a.toNat < s.rx.len.toNat
  · rw [if_pos h]
    by_cases hr : a.toNat < s.cfg.maxPayload.toNat
    · rw [memRead_of_lt hr]
      exact .inl ⟨h.1, h.2, hr, rfl⟩
    · rw [memRead_eq_none.mpr (by omega)]
      exact .inr (.inl ⟨h.1, h.2, by omega, rfl⟩)
  · rw [if_neg h]
    exact .inr (.inr ⟨h, rfl⟩)

/-- READ of a register that exists, and of one that does not. -/
theorem exec_read_cases (d : Byte) (s : State) :
    (∃ v, d.toNat ≤ 7 ∧ register d s = some v ∧ exec (.read d) s = .next (s.respond v)) ∨
    (7 < d.toNat ∧ register d s = none ∧ exec (.read d) s = .next (raiseIllegal s)) := by
  show (∃ v, _ ∧ _ ∧ execRead d s = _) ∨ (_ ∧ _ ∧ execRead d s = _)
  unfold execRead
  cases hr : register d s with
  | some v =>
    refine .inl ⟨v, ?_, rfl, rfl⟩
    unfold register at hr
    split at hr <;> first | omega | cases hr
  | none =>
    refine .inr ⟨?_, rfl, rfl⟩
    unfold register at hr
    split at hr
    all_goals try cases hr
    rename_i h0 h1 h2 h3 h4 h5 h6 h7
    by_contra h
    have : d.toNat ≤ 7 := by omega
    interval_cases hd : d.toNat <;> simp_all

/-- No command is refused. -/
theorem exec_ne_refused (i : Instr) (s : State) (r : Refusal) : exec i s ≠ .refused r := by
  cases i
  case txLoad => rw [exec_txLoad]; simp
  case txBegin => rw [exec_txBegin]; simp
  case txReset => rw [exec_txReset]; simp
  case arqSend => rw [exec_arqSend]; simp
  case txNext => rcases exec_txNext_cases s with ⟨-, e⟩ | ⟨-, _, _, -, e⟩ | ⟨-, -, e⟩ <;> rw [e] <;> simp
  case rxRead a => rcases exec_rxRead_cases a s with ⟨-, -, -, e⟩ | ⟨-, -, -, e⟩ | ⟨-, e⟩ <;> rw [e] <;> simp
  case read d => rcases exec_read_cases d s with ⟨_, -, -, e⟩ | ⟨-, -, e⟩ <;> rw [e] <;> simp
  all_goals exact fun h => by cases h

/-! ### The cycle -/

@[simp] theorem State.startCycle_chkAcc (s : State) : s.startCycle.chkAcc = s.chkAcc := rfl
@[simp] theorem State.startCycle_ill (s : State) : s.startCycle.ill = s.ill := rfl
@[simp] theorem State.startCycle_rx (s : State) : s.startCycle.rx = s.rx := rfl
@[simp] theorem State.startCycle_tx (s : State) : s.startCycle.tx = s.tx := rfl
@[simp] theorem State.startCycle_arq (s : State) : s.startCycle.arq = s.arq := rfl
@[simp] theorem State.startCycle_cfg (s : State) : s.startCycle.cfg = s.cfg := rfl
@[simp] theorem State.startCycle_inputs (s : State) : s.startCycle.inputs = s.inputs.tail := rfl
@[simp] theorem State.startCycle_out (s : State) : s.startCycle.out = Outputs.zero := rfl

@[simp] theorem finishCycle_next (ready : Bool) (s : State) : finishCycle ready (.next s) = arqTick ready s := rfl
@[simp] theorem finishCycle_fault (ready : Bool) (f : Fault) : finishCycle ready (.fault f) = .fault f := rfl
@[simp] theorem finishCycle_refused (ready : Bool) (r : Refusal) : finishCycle ready (.refused r) = .refused r := rfl

/-- Everything a step that answers a next state can have done (44_system.md R217). -/
theorem step_cases {s t : State} (h : step s = .next t) :
    s.cfg.wf = true ∧
    ((s.port.rst = true ∧ t = resetState s.startCycle) ∨
     (s.port.rst = false ∧ ∃ u, arqTick s.port.sinkReady u = .next t ∧
        ((s.port.cmdValid = false ∧ u = s.startCycle) ∨
         (s.port.cmdValid = true ∧ (∃ e, decode s.port.cmd = .illegal e) ∧ u = raiseIllegal s.startCycle) ∨
         (s.port.cmdValid = true ∧ ∃ i, decode s.port.cmd = .command i ∧ exec i s.startCycle = .next u)))) := by
  unfold step State.presented at h
  cases hc : s.cfg.wf <;> simp only [hc, Bool.not_false, Bool.not_true, if_true, Bool.false_eq_true, if_false] at h
  · cases h
  refine ⟨rfl, ?_⟩
  cases hr : s.port.rst <;> simp only [hr, if_true, Bool.false_eq_true, if_false] at h
  · refine .inr ⟨rfl, ?_⟩
    cases hv : s.port.cmdValid <;>
      simp only [hv, Bool.not_false, Bool.not_true, if_true, Bool.false_eq_true, if_false] at h
    · exact ⟨_, h, .inl ⟨rfl, rfl⟩⟩
    · cases hd : decode s.port.cmd with
      | illegal e =>
        simp only [hd, finishCycle_next] at h
        exact ⟨_, h, .inr (.inl ⟨rfl, ⟨e, rfl⟩, rfl⟩)⟩
      | command i =>
        simp only [hd] at h
        cases hx : exec i s.startCycle with
        | next u =>
          rw [hx, finishCycle_next] at h
          exact ⟨u, h, .inr (.inr ⟨rfl, i, rfl, hx⟩)⟩
        | fault f => rw [hx, finishCycle_fault] at h; cases h
        | refused r => rw [hx, finishCycle_refused] at h; cases h
  · exact .inl ⟨rfl, by cases h; rfl⟩

/-- A step that runs a command: the command, then the tick. -/
theorem step_of_command {s : State} {i : Instr} (hc : s.cfg.wf = true) (hr : s.port.rst = false)
    (hv : s.port.cmdValid = true) (hd : decode s.port.cmd = .command i) :
    step s = finishCycle s.port.sinkReady (exec i s.startCycle) := by
  simp [step, State.presented, hc, hr, hv, hd]

theorem step_of_illegal {s : State} {e : IllegalWord} (hc : s.cfg.wf = true) (hr : s.port.rst = false)
    (hv : s.port.cmdValid = true) (hd : decode s.port.cmd = .illegal e) :
    step s = arqTick s.port.sinkReady (raiseIllegal s.startCycle) := by
  simp [step, State.presented, hc, hr, hv, hd]

theorem step_of_idle {s : State} (hc : s.cfg.wf = true) (hr : s.port.rst = false) (hv : s.port.cmdValid = false) :
    step s = arqTick s.port.sinkReady s.startCycle := by
  simp [step, State.presented, hc, hr, hv]

theorem step_of_reset {s : State} (hc : s.cfg.wf = true) (hr : s.port.rst = true) :
    step s = .next (resetState s.startCycle) := by
  simp [step, State.presented, hc, hr]

theorem step_of_badConfig {s : State} (hc : s.cfg.wf = false) : step s = .refused .badConfig := by
  simp [step, State.presented, hc]

@[simp] theorem State.port_nil {s : State} (h : s.inputs = []) : s.port = CycleInput.idle := by simp [State.port, h]

theorem State.port_cons {s : State} {c : CycleInput} {l : List CycleInput} (h : s.inputs = c :: l) : s.port = c := by
  simp [State.port, h]

end Sys2Proof.Machine
end

