-- ==== Sys2Proof/Laws/Cycle.lean ====
section
/-! SUPPORT. `step` is the cycle function on the state record of 10_state.md R21: no part of a cycle looks at the inputs
of later cycles or at the outputs of the cycle before. -/

namespace Sys2Proof.Machine

@[simp] theorem onNext_next {α β : Type} (f : α → β) (s : α) : onNext f (.next s) = .next (f s) := rfl
@[simp] theorem onNext_fault {α β : Type} (f : α → β) (r : Fault) : onNext f (.fault r) = .fault r := rfl
@[simp] theorem onNext_refused {α β : Type} (f : α → β) (r : Refusal) : onNext f (.refused r) = .refused r := rfl

/-! ### The inputs of later cycles have no part in a cycle -/

theorem nakEvent_setInputs (s : State) (l : List CycleInput) :
    nakEvent (s.setInputs l) = (nakEvent s).setInputs l := by
  unfold nakEvent
  rw [apply_ite (fun t : State => t.setInputs l)]
  rfl

theorem tickWaitAck_setInputs (s : State) (l : List CycleInput) :
    tickWaitAck (s.setInputs l) = (tickWaitAck s).setInputs l := by
  unfold tickWaitAck
  rw [apply_ite (fun t : State => t.setInputs l), apply_ite (fun t : State => t.setInputs l)]
  simp only [← nakEvent_setInputs]
  rfl

theorem acknowledge_setInputs (d : Byte) (s : State) (l : List CycleInput) :
    acknowledge d (s.setInputs l) = (acknowledge d s).setInputs l := by
  unfold acknowledge
  simp only [State.setInputs_arq, State.setInputs_cfg, nakEvent_setInputs]
  repeat' split
  all_goals rfl

theorem State.emitAfterCommand_setInputs (s : State) (e : Option Emission) (l : List CycleInput) :
    (s.setInputs l).emitAfterCommand e = (s.emitAfterCommand e).setInputs l := by
  unfold State.emitAfterCommand
  rw [apply_ite (fun t : State => t.setInputs l)]
  rfl

theorem tickSending_setInputs (ready : Bool) (s : State) (l : List CycleInput) :
    tickSending ready (s.setInputs l) = onNext (·.setInputs l) (tickSending ready s) := by
  cases ready
  · rfl
  · show (match txNext s.cfg s.tx with
      | .ok (tx, e) => .next ((((s.setTx tx).setArq (arqAfterEmission s.arq e)).setInputs l).emitAfterCommand e)
      | .error f => .fault f) = onNext _ (match txNext s.cfg s.tx with
      | .ok (tx, e) => .next (((s.setTx tx).setArq (arqAfterEmission s.arq e)).emitAfterCommand e)
      | .error f => .fault f)
    cases txNext s.cfg s.tx with
    | ok r => exact congrArg _ (State.emitAfterCommand_setInputs _ r.2 l)
    | error f => rfl

theorem exec_setInputs (i : Instr) (s : State) (l : List CycleInput) :
    exec i (s.setInputs l) = onNext (·.setInputs l) (exec i s) := by
  cases i
  case rxRead a =>
    show execRxRead a _ = onNext _ (execRxRead a s)
    unfold execRxRead
    split <;> rename_i h <;> simp only [State.setInputs_rx] at h
    · rw [if_pos h]
      show (match memRead .rxbuf a.toNat s with | some v => _ | none => _) = _
      cases memRead .rxbuf a.toNat s <;> rfl
    · rw [if_neg h]; rfl
  case txLoad a d =>
    simp only [exec_txLoad, onNext_next]
    show Host.Outcome.next (if loadIllegal a s then _ else _) = _
    split <;> rfl
  case txBegin a =>
    simp only [exec_txBegin, onNext_next]
    show Host.Outcome.next (if arqBusy s then _ else _) = _
    split <;> rfl
  case txReset =>
    simp only [exec_txReset, onNext_next]
    show Host.Outcome.next (if arqBusy s then _ else _) = _
    split <;> rfl
  case arqSend a =>
    simp only [exec_arqSend, onNext_next]
    show Host.Outcome.next (if arqBusy s then _ else _) = _
    split <;> rfl
  case txNext =>
    show execTxNext _ = onNext _ (execTxNext s)
    unfold execTxNext
    show (if arqBusy s then _ else (match txNext s.cfg s.tx with | .ok (tx, e) => _ | .error f => _)) = _
    split
    · rfl
    · cases txNext s.cfg s.tx <;> rfl
  case ack d =>
    rw [exec_ack, exec_ack, onNext_next, acknowledge_setInputs]; rfl
  case read d =>
    show execRead d _ = onNext _ (execRead d s)
    unfold execRead
    show (match register d s with | some v => _ | none => _) = _
    cases register d s <;> rfl
  all_goals rfl

theorem arqTick_setInputs (ready : Bool) (s : State) (l : List CycleInput) :
    arqTick ready (s.setInputs l) = onNext (·.setInputs l) (arqTick ready s) := by
  unfold arqTick
  simp only [State.setInputs_arq, tickSending_setInputs, tickWaitAck_setInputs]
  cases s.arq.state <;> rfl

theorem finishCycle_setInputs (ready : Bool) (o : Host.Outcome State Fault Refusal) (l : List CycleInput) :
    finishCycle ready (onNext (·.setInputs l) o) = onNext (·.setInputs l) (finishCycle ready o) := by
  cases o <;> simp [arqTick_setInputs]

/-- A step takes from its list of inputs the first entry only, and leaves the rest. -/
theorem step_of_same_port {s s' : State} (l : List CycleInput) (hp : s.presented = s'.presented)
    (hq : s.port = s'.port) (hs : s.startCycle = s'.startCycle.setInputs l) :
    step s = onNext (·.setInputs l) (step s') := by
  unfold step
  rw [hp, hq, hs]
  cases s'.presented with
  | badConfig => rfl
  | reset => rfl
  | idle => exact arqTick_setInputs _ _ l
  | illegal => exact arqTick_setInputs _ (raiseIllegal s'.startCycle) l
  | command i => simp only [exec_setInputs, finishCycle_setInputs]

/-- The state a step leaves and the outputs it drives are the cycle function of the parameters, the cycle's input ports
and the state of 10_state.md R21, and of nothing else that a `State` carries. -/
theorem step_eq_cycle (s : State) :
    onNext (fun t => (t.toEngineState, t.out)) (step s) = cycle s.cfg s.port s.toEngineState := by
  rw [step_of_same_port (s := s)
    (s' := { toEngineState := s.toEngineState, cfg := s.cfg, inputs := [s.port], out := Outputs.zero })
    s.inputs.tail rfl rfl rfl]
  unfold cycle
  cases step { toEngineState := s.toEngineState, cfg := s.cfg, inputs := [s.port], out := Outputs.zero } <;> rfl

end Sys2Proof.Machine
end

