-- ==== Sys2Proof/Laws/Decode.lean ====
section
/-! SUPPORT. The fields of a packed command word, and the bits of the encoder's words. -/

namespace Sys2Proof

/-- The bits of a packed word: D, then A, then RSV = 0, then OP. -/
theorem packWord_getLsbD (op : BitVec 4) (a : Index) (d : Byte) (i : Nat) :
    (packWord op a d).getLsbD i =
      if i < 8 then d.getLsbD i else if i < 17 then a.getLsbD (i - 8)
      else if i < 28 then false else op.getLsbD (i - 28) := by
  have e : (packWord op a d).getLsbD i = (op ++ (0 : BitVec 11) ++ a ++ d : BitVec (4 + 11 + 9 + 8)).getLsbD i := rfl
  rw [e]
  simp only [BitVec.getLsbD_append]
  rcases lt_or_ge i 8 with h | h
  · simp [h]
  rcases lt_or_ge i 17 with h2 | h2
  · have : i - 8 < 9 := by omega
    simp [h2, this]
  rcases lt_or_ge i 28 with h3 | h3
  · have h4 : ¬ i - 8 < 9 := by omega
    have h5 : i - 8 - 9 < 11 := by omega
    simp [h2.not_gt, h3, h4, h5, Nat.not_lt.mpr h]
  · have h4 : ¬ i - 8 < 9 := by omega
    have h5 : ¬ i - 8 - 9 < 11 := by omega
    have h6 : i - 8 - 9 - 11 = i - 28 := by omega
    simp [h2.not_gt, h3.not_gt, h4, h5, h6, Nat.not_lt.mpr h]

theorem packWord_getElem (op : BitVec 4) (a : Index) (d : Byte) (i : Nat) (h : i < 32) :
    (packWord op a d)[i] =
      if i < 8 then d.getLsbD i else if i < 17 then a.getLsbD (i - 8)
      else if i < 28 then false else op.getLsbD (i - 28) := by
  rw [← packWord_getLsbD, BitVec.getLsbD_eq_getElem h]

@[simp] theorem fieldOp_packWord (op : BitVec 4) (a : Index) (d : Byte) : fieldOp (packWord op a d) = op := by
  apply BitVec.eq_of_getLsbD_eq
  intro i hi
  interval_cases i <;> simp [fieldOp, packWord_getElem]

@[simp] theorem fieldRsv_packWord (op : BitVec 4) (a : Index) (d : Byte) : fieldRsv (packWord op a d) = 0 := by
  apply BitVec.eq_of_getLsbD_eq
  intro i hi
  interval_cases i <;> simp [fieldRsv, packWord_getElem]

@[simp] theorem fieldA_packWord (op : BitVec 4) (a : Index) (d : Byte) : fieldA (packWord op a d) = a := by
  apply BitVec.eq_of_getLsbD_eq
  intro i hi
  interval_cases i <;> simp [fieldA, packWord_getElem]

@[simp] theorem fieldD_packWord (op : BitVec 4) (a : Index) (d : Byte) : fieldD (packWord op a d) = d := by
  apply BitVec.eq_of_getLsbD_eq
  intro i hi
  interval_cases i <;> simp [fieldD, packWord_getElem]

/-- A word with RSV = 0 is its own fields packed. -/
theorem packWord_fields (w : Word) (h : fieldRsv w = 0) : packWord (fieldOp w) (fieldA w) (fieldD w) = w := by
  apply BitVec.eq_of_getLsbD_eq
  intro i hi
  rw [packWord_getLsbD]
  split
  · simp [fieldD, *]
  split
  · rename_i h1 h2
    have : 8 + (i - 8) = i := by omega
    have : i - 8 < 9 := by omega
    simp [fieldA, *]
  split
  · rename_i h1 h2 h3
    have e : (fieldRsv w).getLsbD (i - 17) = false := by rw [h]; simp
    have h4 : 17 + (i - 17) = i := by omega
    have h5 : i - 17 < 11 := by omega
    simpa [fieldRsv, h4, h5] using e.symm
  · rename_i h1 h2 h3
    have h4 : 28 + (i - 28) = i := by omega
    have h5 : i - 28 < 4 := by omega
    simp [fieldOp, h4, h5]

/-- The bits of the reserved operation's word: the 28 free bits, then OP = 0xF. -/
theorem encode_reserved_getLsbD (x : BitVec 28) (i : Nat) :
    (encode (.reserved x)).getLsbD i = if i < 28 then x.getLsbD i else (0xF : BitVec 4).getLsbD (i - 28) := by
  have e : (encode (.reserved x)).getLsbD i = ((0xF : BitVec 4) ++ x : BitVec (4 + 28)).getLsbD i := rfl
  rw [e, BitVec.getLsbD_append]

theorem encode_reserved_getElem (x : BitVec 28) (i : Nat) (h : i < 32) :
    (encode (.reserved x))[i] = if i < 28 then x.getLsbD i else (0xF : BitVec 4).getLsbD (i - 28) := by
  rw [← encode_reserved_getLsbD, BitVec.getLsbD_eq_getElem h]

end Sys2Proof
end

