-- ==== Sys2Proof/Laws/Operands.lean ====
section
/-! SUPPORT. The bits of the register words and of the response words, so that a proof about a field of a word reads it
from here. The index `i` is a variable: give it a value after the rewrite. -/

namespace Sys2Proof.Machine

theorem gstat_getLsbD (s : State) (i : Nat) :
    (gstat s).getLsbD i =
      if i < 1 then (BitVec.ofBool s.ill).getLsbD i
      else if i < 2 then (BitVec.ofBool (arqBusy s)).getLsbD (i - 1)
      else false := by
  show ((0 : BitVec 30) ++ BitVec.ofBool (arqBusy s) ++ BitVec.ofBool s.ill : BitVec (30 + 1 + 1)).getLsbD i = _
  simp only [BitVec.getLsbD_append]
  repeat' split
  all_goals first | omega | simp

theorem rxstat_getLsbD (rx : RxUnit) (i : Nat) :
    (rxstat rx).getLsbD i =
      if i < 2 then rx.state.status.getLsbD i
      else if i < 4 then rx.err.code.getLsbD (i - 2)
      else if i < 7 then rx.state.code.getLsbD (i - 4)
      else if i < 8 then false
      else if i < 16 then rx.len.getLsbD (i - 8)
      else if i < 24 then rx.count.getLsbD (i - 16)
      else rx.chk.getLsbD (i - 24) := by
  show (rx.chk ++ rx.count ++ rx.len ++ (0 : BitVec 1) ++ rx.state.code ++ rx.err.code ++ rx.state.status :
    BitVec (8 + 8 + 8 + 1 + 3 + 2 + 2)).getLsbD i = _
  simp only [BitVec.getLsbD_append]
  repeat' split
  all_goals first | omega | rfl | simp

theorem txstat_getLsbD (tx : TxUnit) (i : Nat) :
    (txstat tx).getLsbD i =
      if i < 2 then tx.state.status.getLsbD i
      else if i < 4 then tx.err.code.getLsbD (i - 2)
      else if i < 7 then tx.state.code.getLsbD (i - 4)
      else if i < 8 then false
      else if i < 16 then tx.len.getLsbD (i - 8)
      else if i < 24 then tx.cursor.getLsbD (i - 16)
      else tx.chk.getLsbD (i - 24) := by
  show (tx.chk ++ tx.cursor ++ tx.len ++ (0 : BitVec 1) ++ tx.state.code ++ tx.err.code ++ tx.state.status :
    BitVec (8 + 8 + 8 + 1 + 3 + 2 + 2)).getLsbD i = _
  simp only [BitVec.getLsbD_append]
  repeat' split
  all_goals first | omega | rfl | simp

theorem arqstat_getLsbD (arq : ArqUnit) (i : Nat) :
    (arqstat arq).getLsbD i =
      if i < 3 then arq.state.code.getLsbD i
      else if i < 8 then false
      else if i < 16 then arq.attempts.getLsbD (i - 8)
      else arq.timer.getLsbD (i - 16) := by
  show (arq.timer ++ arq.attempts ++ (0 : BitVec 5) ++ arq.state.code : BitVec (16 + 8 + 5 + 3)).getLsbD i = _
  simp only [BitVec.getLsbD_append]
  repeat' split
  all_goals first | omega | rfl | simp

theorem param0_getLsbD (c : Config) (i : Nat) :
    (param0 c).getLsbD i =
      if i < 8 then c.stx.getLsbD i
      else if i < 16 then c.etx.getLsbD (i - 8)
      else if i < 24 then c.ack.getLsbD (i - 16)
      else c.nak.getLsbD (i - 24) := by
  show (c.nak ++ c.ack ++ c.etx ++ c.stx : BitVec (8 + 8 + 8 + 8)).getLsbD i = _
  simp only [BitVec.getLsbD_append]
  repeat' split
  all_goals first | omega | rfl

theorem param1_getLsbD (c : Config) (i : Nat) :
    (param1 c).getLsbD i =
      if i < 8 then c.maxPayload.getLsbD i
      else if i < 16 then c.retryBudget.getLsbD (i - 8)
      else if i < 17 then (BitVec.ofBool c.rxAutoReset).getLsbD (i - 16)
      else false := by
  show ((0 : BitVec 15) ++ BitVec.ofBool c.rxAutoReset ++ c.retryBudget ++ c.maxPayload :
    BitVec (15 + 1 + 8 + 8)).getLsbD i = _
  simp only [BitVec.getLsbD_append]
  repeat' split
  all_goals first | omega | rfl | simp

theorem param2_getLsbD (c : Config) (i : Nat) :
    (param2 c).getLsbD i = if i < 16 then c.ackTimeout.getLsbD i else false := by
  show ((0 : BitVec 16) ++ c.ackTimeout : BitVec (16 + 16)).getLsbD i = _
  simp only [BitVec.getLsbD_append]
  split <;> simp

theorem txnextWord_getLsbD (tx : TxUnit) (e : Option Emission) (i : Nat) :
    (txnextWord tx e).getLsbD i =
      if i < 8 then (e.elim (0 : Byte) Emission.data).getLsbD i
      else if i < 9 then (BitVec.ofBool e.isSome).getLsbD (i - 8)
      else if i < 10 then (BitVec.ofBool (e.elim false Emission.final)).getLsbD (i - 9)
      else if i < 12 then tx.state.status.getLsbD (i - 10)
      else if i < 14 then tx.err.code.getLsbD (i - 12)
      else false := by
  show ((0 : BitVec 18) ++ tx.err.code ++ tx.state.status ++ BitVec.ofBool (e.elim false Emission.final) ++
    BitVec.ofBool e.isSome ++ e.elim (0 : Byte) Emission.data : BitVec (18 + 2 + 2 + 1 + 1 + 8)).getLsbD i = _
  simp only [BitVec.getLsbD_append]
  repeat' split
  all_goals first | omega | rfl | simp

end Sys2Proof.Machine
end

