-- ==== Sys2Proof/Laws/PerInstr.lean ====
section
/-! SUPPORT. The family EncodingMatchesRow: the encoder's word of every command matches its row of the opcode map under
the row's mask (30_encoding.md R75), one lemma for each constructor. -/

namespace Sys2Proof.Laws.EncodingMatchesRow

/-- The word of `i` matches the row of `i`. -/
def Statement (i : Instr) : Prop := encode i &&& (opcodeRow i).2 = (opcodeRow i).1

theorem nop : Statement .nop := by
  refine BitVec.eq_of_getLsbD_eq fun i hi => ?_
  interval_cases i <;> simp [encode, opcodeRow, packWord_getElem]

theorem chkSeed (d : Byte) : Statement (.chkSeed d) := by
  refine BitVec.eq_of_getLsbD_eq fun i hi => ?_
  interval_cases i <;> simp [encode, opcodeRow, packWord_getElem]

theorem chkFold (d : Byte) : Statement (.chkFold d) := by
  refine BitVec.eq_of_getLsbD_eq fun i hi => ?_
  interval_cases i <;> simp [encode, opcodeRow, packWord_getElem]

theorem rxFeed (d : Byte) : Statement (.rxFeed d) := by
  refine BitVec.eq_of_getLsbD_eq fun i hi => ?_
  interval_cases i <;> simp [encode, opcodeRow, packWord_getElem]

theorem rxReset : Statement .rxReset := by
  refine BitVec.eq_of_getLsbD_eq fun i hi => ?_
  interval_cases i <;> simp [encode, opcodeRow, packWord_getElem]

theorem rxRead (a : Index) : Statement (.rxRead a) := by
  refine BitVec.eq_of_getLsbD_eq fun i hi => ?_
  interval_cases i <;> simp [encode, opcodeRow, packWord_getElem]

theorem txLoad (a : Index) (d : Byte) : Statement (.txLoad a d) := by
  refine BitVec.eq_of_getLsbD_eq fun i hi => ?_
  interval_cases i <;> simp [encode, opcodeRow, packWord_getElem]

theorem txBegin (a : Index) : Statement (.txBegin a) := by
  refine BitVec.eq_of_getLsbD_eq fun i hi => ?_
  interval_cases i <;> simp [encode, opcodeRow, packWord_getElem]

theorem txNext : Statement .txNext := by
  refine BitVec.eq_of_getLsbD_eq fun i hi => ?_
  interval_cases i <;> simp [encode, opcodeRow, packWord_getElem]

theorem txReset : Statement .txReset := by
  refine BitVec.eq_of_getLsbD_eq fun i hi => ?_
  interval_cases i <;> simp [encode, opcodeRow, packWord_getElem]

theorem arqSend (a : Index) : Statement (.arqSend a) := by
  refine BitVec.eq_of_getLsbD_eq fun i hi => ?_
  interval_cases i <;> simp [encode, opcodeRow, packWord_getElem]

theorem ack (d : Byte) : Statement (.ack d) := by
  refine BitVec.eq_of_getLsbD_eq fun i hi => ?_
  interval_cases i <;> simp [encode, opcodeRow, packWord_getElem]

theorem arqAbort : Statement .arqAbort := by
  refine BitVec.eq_of_getLsbD_eq fun i hi => ?_
  interval_cases i <;> simp [encode, opcodeRow, packWord_getElem]

theorem read (d : Byte) : Statement (.read d) := by
  refine BitVec.eq_of_getLsbD_eq fun i hi => ?_
  interval_cases i <;> simp [encode, opcodeRow, packWord_getElem]

theorem clrIll : Statement .clrIll := by
  refine BitVec.eq_of_getLsbD_eq fun i hi => ?_
  interval_cases i <;> simp [encode, opcodeRow, packWord_getElem]

theorem reserved (x : BitVec 28) : Statement (.reserved x) := by
  refine BitVec.eq_of_getLsbD_eq fun i hi => ?_
  interval_cases i <;> simp [opcodeRow, encode_reserved_getElem]

end Sys2Proof.Laws.EncodingMatchesRow
end

