-- ==== Sys2Proof/Tests/Slice0.lean ====
section
/-! SUPPORT. Tests on fixed values. The expected words and bytes are those of spec/95_test_vectors.md (the vector's id
stands in the comment), or are written out from the encoding of 30_encoding.md R72 to R76. At the end, for every
obligation with hypotheses, states and operands that meet them. -/

namespace Sys2Proof.Tests

open Sys2Proof Sys2Proof.Machine Sys2Proof.Safety

/-! ### WellFormed: what each check refuses -/

theorem test_wf_read_7 : (Instr.read 0x07).wf = true := by decide
theorem test_wf_refuses_read_8 : (Instr.read 0x08).wf = false := by decide
theorem test_wf_refuses_read_255 : (Instr.read 0xFF).wf = false := by decide
theorem test_wf_default_config : Config.specDefault.wf = true := by decide
theorem test_wf_refuses_stx_eq_etx : { Config.specDefault with etx := 0x02 }.wf = false := by decide
theorem test_wf_refuses_ack_eq_nak : { Config.specDefault with nak := 0x06 }.wf = false := by decide
theorem test_wf_refuses_budget_0 : { Config.specDefault with retryBudget := 0 }.wf = false := by decide
theorem test_wf_reset_memory : Memory.wf State.reset.tx.buf = true ∧ Memory.wf State.reset.rx.buf = true := by decide
theorem test_wf_refuses_unsorted_memory : Memory.wf [(3, 0x01), (2, 0x01)] = false := by decide
theorem test_wf_refuses_repeated_index : Memory.wf [(3, 0x01), (3, 0x02)] = false := by decide

/-! ### Decoding: one word for every constructor, written out as OP, RSV, A, D -/

theorem test_decode_nop : decode 0x00000000 = .command .nop := by decide
theorem test_decode_chkSeed : decode 0b0001_00000000000_000000000_00000010 = .command (.chkSeed 0x02) := by decide
theorem test_decode_chkFold : decode 0b0010_00000000000_000000000_01011010 = .command (.chkFold 0x5A) := by decide
theorem test_decode_rxFeed : decode 0b0011_00000000000_000000000_11111111 = .command (.rxFeed 0xFF) := by decide
theorem test_decode_rxReset : decode 0x40000000 = .command .rxReset := by decide
theorem test_decode_rxRead : decode 0b0101_00000000000_100000001_00000000 = .command (.rxRead 257) := by decide
theorem test_decode_txLoad : decode 0b0110_00000000000_000000001_00000010 = .command (.txLoad 1 0x02) := by decide
theorem test_decode_txBegin_256 : decode 0x70010000 = .command (.txBegin 256) := by decide
theorem test_decode_txNext : decode 0x80000000 = .command .txNext := by decide
theorem test_decode_txReset : decode 0x90000000 = .command .txReset := by decide
theorem test_decode_arqSend : decode 0b1010_00000000000_000000010_00000000 = .command (.arqSend 2) := by decide
theorem test_decode_ack : decode 0b1011_00000000000_000000000_00010101 = .command (.ack 0x15) := by decide
theorem test_decode_arqAbort : decode 0xC0000000 = .command .arqAbort := by decide
theorem test_decode_read : decode 0b1101_00000000000_000000000_00000101 = .command (.read 0x05) := by decide
theorem test_decode_clrIll : decode 0xE0000000 = .command .clrIll := by decide
theorem test_decode_reserved : decode 0xF8000001 = .command (.reserved 0x8000001) := by decide

/-- CHK-6, TX-10 and R74: the words that are illegal at decode. -/
theorem test_decode_illegal :
    decode 0x10000102 = .illegal .unusedField ∧ decode 0x20020001 = .illegal .reservedBits ∧
      decode 0x80000001 = .illegal .unusedField ∧ decode 0x70000201 = .illegal .unusedField ∧
      decode 0x00000001 = .illegal .unusedField ∧ decode 0xD0000008 = .illegal .registerIndex ∧
      decode 0xE8000000 = .illegal .reservedBits := by decide

/-- TX-1, TX-5, ARQ-1, RX-1: the encoder's words. -/
theorem test_encode :
    encode (.txLoad 1 0x02) = 0x60000102 ∧ encode (.txBegin 256) = 0x70010000 ∧ encode (.arqSend 2) = 0xA0000200 ∧
      encode (.rxRead 1) = 0x50000100 ∧ encode (.reserved 0x0FFFFFF) = 0xF0FFFFFF := by decide

/-- 20_memory.md R54: the least significant byte first. -/
theorem test_bytes :
    wordToBytes 0x60000102 = [0x02, 0x01, 0x00, 0x60] ∧
      decodeBytes [0x02, 0x01, 0x00, 0x60, 0x99] = some (.command (.txLoad 1 0x02), [0x99]) := by decide

theorem test_decodeTableWord :
    decodeTableWord 32 0x10000002 = some (.chkSeed 0x02) ∧ decodeTableWord 32 0xD0000008 = none ∧
      decodeTableWord 32 0xF0000000 = some (.reserved 0) := by decide

/-! ### Helpers -/

/-- The response word of a legal command. -/
def resp (i : Instr) (s : State) : Option Word :=
  match exec i s with
  | .next t => if t.out.respIll then none else some t.out.resp
  | .fault _ => none
  | .refused _ => none

/-- The command is illegal in this state. -/
def isIllegal (i : Instr) (s : State) : Bool :=
  match exec i s with
  | .next t => t.out.respIll && t.ill
  | .fault _ => false
  | .refused _ => false

/-- A transmitter whose buffer holds [0x01, 0x02], with the frame of it in progress: tx_chk = 0x03 (TX-2). -/
def txAt (st : TxState) (cursor : Byte) : TxUnit :=
  { state := st, err := .none, len := 0x02, cursor := cursor, chk := 0x03, buf := [(0, 0x01), (1, 0x02)] }

/-- The reset state with [0x01, 0x02] in TXBUF. -/
def loaded : State := { State.reset with tx := { State.reset.tx with buf := [(0, 0x01), (1, 0x02)] } }

/-- A transmitter in the middle of the frame of TX-2, driven by the host. -/
def sending (st : TxState) (cursor : Byte) : State := { State.reset with tx := txAt st cursor }

/-- A controller in SENDING, with the transmitter at `st`. -/
def arqSending (st : TxState) (cursor : Byte) : State :=
  { sending st cursor with arq := { state := .sending, attempts := 0, timer := 0 } }

/-- A controller in WAIT_ACK after the frame of TX-2, with `n` attempts and `k` ticks counted, ACK_TIMEOUT = 2. -/
def waiting (n : Byte) (k : BitVec 16) : State :=
  { sending .done 2 with
    arq := { state := .waitAck, attempts := n, timer := k }, cfg := { Config.specDefault with ackTimeout := 2 } }

/-- A receiver in state `st` of the frame of [0x01, 0x02]. -/
def rxAt (st : RxState) (count chk : Byte) : State :=
  { State.reset with
    rx := { state := st, err := .none, len := 0x02, count := count, chk := chk, buf := [(0, 0x01), (1, 0x02)] } }

/-! ### The commands -/

theorem test_nop : resp .nop State.reset = some 0x00000000 := by decide
/-- CHK-1 -/
theorem test_chkSeed : resp (.chkSeed 0x02) State.reset = some 0x00000002 := by decide
/-- CHK-3 -/
theorem test_chkFold_same : resp (.chkFold 0x5A) { State.reset with chkAcc := 0x5A } = some 0x00000000 := by decide
/-- CHK-2 -/
theorem test_chkFold_zero : resp (.chkFold 0x00) { State.reset with chkAcc := 0x5A } = some 0x0000005A := by decide
/-- RX-1, the last data byte -/
theorem test_rxFeed_data : resp (.rxFeed 0x02) (rxAt .readData 1 0x01) = some 0x03020230 := by decide
/-- RX-5, a wrong CHK byte -/
theorem test_rxFeed_mismatch : resp (.rxFeed 0x01) (rxAt .checkChk 2 0x03) = some 0x0302026A := by decide
/-- RX-7 -/
theorem test_rxReset : resp .rxReset (rxAt .readData 1 0x01) = some 0x00000000 := by decide
/-- RX-1: RX_READ 1, and RX_READ 2 at rx_len -/
theorem test_rxRead : resp (.rxRead 1) (rxAt .done 2 0x03) = some 0x02 ∧ resp (.rxRead 2) (rxAt .done 2 0x03) = some 0 := by
  decide
/-- RX-10: outside Done -/
theorem test_rxRead_not_done : resp (.rxRead 0) (rxAt .waitEtx 2 0x03) = some 0x00 := by decide
/-- TX-9: legal in Done -/
theorem test_txLoad_done : resp (.txLoad 0 0x05) (sending .done 2) = some 0x03020262 := by decide
/-- TX-6: illegal in the middle of a frame -/
theorem test_txLoad_midFrame : isIllegal (.txLoad 0 0x09) (sending .sendData 0) = true := by decide
/-- TX-2 -/
theorem test_txBegin : resp (.txBegin 2) loaded = some 0x03000211 := by decide
/-- TX-5 -/
theorem test_txBegin_256 : resp (.txBegin 256) loaded = some 0x00000077 := by decide
/-- TX-2: the first data byte, and ETX -/
theorem test_txNext :
    resp .txNext (sending .sendData 0) = some 0x00000501 ∧ resp .txNext (sending .sendEtx 2) = some 0x00000B03 := by decide
/-- TX-2: after the frame -/
theorem test_txNext_done : resp .txNext (sending .done 2) = some 0x00000800 := by decide
/-- TX-5 -/
theorem test_txReset : resp .txReset (sending .sendChk 2) = some 0x00000000 := by decide
/-- ARQ-1 -/
theorem test_arqSend : resp (.arqSend 2) loaded = some 0x00000001 := by decide
/-- 43_arq.md R182: one outstanding frame -/
theorem test_arqSend_busy : isIllegal (.arqSend 2) (waiting 0 0) = true := by decide
/-- ARQ-2 and ARQ-1: NAK with no attempt counted, ACK -/
theorem test_ack : resp (.ack 0x15) (waiting 0 0) = some 0x00000101 ∧ resp (.ack 0x06) (waiting 0 0) = some 0x00000003 := by
  decide
/-- ARQ-2: the third NAK -/
theorem test_ack_exhausts : resp (.ack 0x15) (waiting 2 0) = some 0x00000304 := by decide
/-- 43_arq.md R185 -/
theorem test_arqAbort : resp .arqAbort (arqSending .sendData 1) = some 0x00000000 := by decide
/-- 44_system.md R211 -/
theorem test_read : resp (.read 5) State.reset = some 0x15060302 ∧ resp (.read 6) State.reset = some 0x000003FF := by decide
/-- CHK-6: GSTAT after an illegal command -/
theorem test_read_gstat : resp (.read 0) { State.reset with ill := true } = some 0x00000001 := by decide
theorem test_clrIll : resp .clrIll { State.reset with ill := true } = some 0x00000000 := by decide
theorem test_reserved : isIllegal (.reserved 0x123) State.reset = true := by decide

/-! ### The cycle -/

/-- The state after one cycle. -/
def after (s : State) : State :=
  match step s with
  | .next t => t
  | .fault _ => s
  | .refused _ => s

/-- `s` with one coming cycle. -/
def presenting (s : State) (rst valid : Bool) (w : Word) (ready : Bool) : State :=
  { s with inputs := [{ rst := rst, cmdValid := valid, cmd := w, sinkReady := ready }] }

/-- ARQ-1, cycle 0: the response is that of the command, the byte is that of the tick. -/
theorem test_step_arqSend :
    (after (presenting loaded false true 0xA0000200 true)).out =
      { respValid := true, respIll := false, resp := 0x00000001, txoValid := true, txoData := 0x02, txoFinal := false } := by
  decide

/-- 43_arq.md R189: a sink that is not ready stops the tick. -/
theorem test_step_sink_not_ready :
    after (presenting (arqSending .sendEtx 2) false false 0 false) = arqSending .sendEtx 2 := by decide

/-- P4, cycle 22: the second tick of a wait with ACK_TIMEOUT = 2 and two attempts counted ends in EXHAUSTED. -/
theorem test_step_timeout :
    (after (presenting (waiting 2 1) false false 0 true)).arq = { state := .exhausted, attempts := 3, timer := 2 } := by
  decide

/-- 70_reset_and_hazards.md R260, R261: rst beats the command of its cycle and keeps TXBUF. -/
theorem test_step_reset : after (presenting (waiting 2 1) true true 0xA0000200 true) = { loaded with cfg := (waiting 0 0).cfg } := by
  decide

/-- 44_system.md R217: cmd is ignored in a cycle with cmd_valid = 0. -/
theorem test_step_idle : after (presenting loaded false false 0xFFFFFFFF true) = loaded := by decide

theorem test_step_illegal :
    (after (presenting loaded false true 0x10000102 true)).ill = true ∧
      (after (presenting loaded false true 0x10000102 true)).out = Outputs.illegal := by decide

theorem test_step_refuses_bad_config :
    step { State.reset with cfg := { Config.specDefault with etx := 0x02 } } = .refused .badConfig := rfl

theorem test_withFetchWord : (after (State.reset.withFetchWord 32 0x1000005A)).chkAcc = 0x5A := by decide

/-- 30_encoding.md R84, R85: a line of each kind. -/
theorem test_assemble :
    (assemble ["LOADP 0, 0x01, 2 ; payload", "SINK 0", "@3 IDLE"]).map (List.map fun c => (c.cmdValid, c.cmd, c.sinkReady)) =
      some [(true, 0x60000001, true), (true, 0x60000102, true), (false, 0, false), (false, 0, false)] := by decide

/-- Lines with no command, as log 20 takes them. -/
theorem test_assemble_empty_lines :
    (assemble ["", "; nothing", "@2", "NOP"]).map (List.map CycleInput.cmdValid) = some [false, false, true] := by decide

/-- 30_encoding.md R84: operands out of range are refused. -/
theorem test_assemble_refuses :
    assemble ["CHK_SEED 256"] = none ∧ assemble ["TX_BEGIN 512"] = none ∧ assemble ["READ 8"] = none := by decide

/-! ### Witnesses: states and operands that meet the hypotheses of each obligation, clause by clause -/

theorem witness_EncodedCommandDecodesToItself :
    (Instr.txLoad 511 0xFF).wf = true ∧ (Instr.read 7).wf = true ∧ (Instr.reserved 0xFFFFFFF).wf = true := by decide

theorem witness_DecodedWordEncodesBack :
    decode 0x6001FFFF = .command (.txLoad 511 0xFF) ∧ decode 0xFFFFFFFF = .command (.reserved 0xFFFFFFF) := by decide

theorem witness_StepRunsTheDecodedCommand :
    (presenting loaded false true 0xA0000200 true).cfg.wf = true ∧
      (presenting loaded false true 0xA0000200 true).inputs =
        { rst := false, cmdValid := true, cmd := 0xA0000200, sinkReady := true } :: [] ∧
      decode 0xA0000200 = .command (.arqSend 2) := by decide

theorem witness_StepOnAnIllegalWordOnlySetsIll :
    (presenting loaded false true 0x10000102 true).cfg.wf = true ∧
      (presenting loaded false true 0x10000102 true).inputs =
        { rst := false, cmdValid := true, cmd := 0x10000102, sinkReady := true } :: [] ∧
      decode 0x10000102 = .illegal .unusedField := by decide

theorem witness_StepOfAnIdleCycleIsTheTick :
    (presenting (waiting 2 1) false false 0xFFFFFFFF false).cfg.wf = true ∧
      (presenting (waiting 2 1) false false 0xFFFFFFFF false).inputs =
        { rst := false, cmdValid := false, cmd := 0xFFFFFFFF, sinkReady := false } :: [] := by decide

theorem witness_ResetCycleGivesTheResetState :
    let c : CycleInput := { rst := true, cmdValid := true, cmd := 0xA0000200, sinkReady := true }
    let s := { waiting 2 1 with inputs := [c, c] }
    s.cfg.wf = true ∧ s.inputs = c :: [c] ∧ c.rst = true := by decide

theorem witness_OnlyABadConfigurationIsRefused :
    ∃ t, step (presenting loaded false true 0x00000000 true) = .next t := ⟨_, rfl⟩

/-- Each clause of IllegalCommandsWriteOnlyIll: a busy controller, a frame in progress, an index at MAX_PAYLOAD, the
first register index that does not exist. -/
theorem witness_IllegalCommandsWriteOnlyIll :
    (arqSending .sendStx 0).arq.state = .sending ∧ (waiting 0 0).arq.state = .waitAck ∧
      (sending .sendEtx 2).tx.state ∈ [TxState.sendStx, .sendLen, .sendData, .sendChk, .sendEtx] ∧
      State.reset.cfg.maxPayload.toNat ≤ (255 : Index).toNat ∧ 7 < (8 : Byte).toNat := by decide

theorem witness_CommandsAreIllegalExactlyWhen :
    (∃ t, exec .txNext (arqSending .sendStx 0) = .next t ∧ t.out.respIll = true) ∧
      (∃ t, exec (.txLoad 255 0) State.reset = .next t ∧ t.out.respIll = true) ∧
      (∃ t, exec (.txLoad 254 0) State.reset = .next t ∧ t.out.respIll = false) ∧
      (∃ t, exec (.read 8) State.reset = .next t ∧ t.out.respIll = true) ∧
      ∃ t, exec (.reserved 0) State.reset = .next t ∧ t.out.respIll = true :=
  ⟨⟨_, rfl, rfl⟩, ⟨_, rfl, rfl⟩, ⟨_, rfl, rfl⟩, ⟨_, rfl, rfl⟩, ⟨_, rfl, rfl⟩⟩

theorem witness_IllStaysSetUntilCleared :
    let s := presenting { loaded with ill := true } false true 0xE0000000 true
    (∃ t, step s = .next t) ∧ s.ill = true ∧ s.port.rst = false ∧ decode s.port.cmd = .command .clrIll :=
  ⟨⟨_, rfl⟩, rfl, rfl, by decide⟩

theorem witness_ReadParametersReturnTheConfiguration : State.reset.cfg = Config.specDefault := by decide

theorem witness_FoldLaws : [(0x01 : Byte), 0x02].Perm [0x02, 0x01] ∧ (0x01 : Byte) ≠ 0x02 := by decide

theorem witness_ValidFramesAreTheEncodedPayloads :
    [(0x01 : Byte), 0x02].length ≤ Config.specDefault.maxPayload.toNat ∧
      encodeFrame Config.specDefault [0x01, 0x02] = [0x02, 0x02, 0x01, 0x02, 0x03, 0x03] := by decide

theorem witness_RxFeedInWaitStx : State.reset.rx.state = .waitStx ∧ (0x02 : Byte) = State.reset.cfg.stx := by decide

theorem witness_RxFeedInATerminalState :
    (rxAt .done 2 0x03).rx.state = .done ∧ (rxAt .error 2 0x03).rx.state = .error ∧
      (rxAt .done 2 0x03).cfg.rxAutoReset = false ∧
      { rxAt .done 2 0x03 with cfg := { Config.specDefault with rxAutoReset := true } }.cfg.rxAutoReset = true := by
  decide

theorem witness_RxFeedInWaitLen :
    (rxAt .waitLen 0 0x02).rx.state = .waitLen ∧ (rxAt .waitLen 0 0x02).cfg.maxPayload = 255 := by decide

/-- The count at the last free index, at the length, and at a capacity below the length. -/
theorem witness_RxFeedInReadData :
    ((rxAt .readData 1 0x01).rx.state = .readData ∧ (rxAt .readData 1 0x01).rx.count.toNat < 2 ∧
        (rxAt .readData 1 0x01).rx.count.toNat < (rxAt .readData 1 0x01).cfg.maxPayload.toNat) ∧
      (rxAt .readData 2 0x03).rx.len.toNat ≤ (rxAt .readData 2 0x03).rx.count.toNat ∧
      { Config.specDefault with maxPayload := 1 }.maxPayload.toNat ≤ (rxAt .readData 1 0x01).rx.count.toNat := by decide

theorem witness_RxFeedChecksTheTrailer :
    (rxAt .checkChk 2 0x03).rx.state = .checkChk ∧ (rxAt .waitEtx 2 0x03).rx.state = .waitEtx := by decide

/-- An index below rx_len, and one at it. -/
theorem witness_RxReadReturnsThePacketByte :
    ((rxAt .done 2 0x03).rx.state = .done → (rxAt .done 2 0x03).rx.len.toNat ≤ (rxAt .done 2 0x03).cfg.maxPayload.toNat) ∧
      ((rxAt .done 2 0x03).rx.state = .done ∧ (1 : Index).toNat < (rxAt .done 2 0x03).rx.len.toNat) ∧
      ¬ ((rxAt .done 2 0x03).rx.state = .done ∧ (2 : Index).toNat < (rxAt .done 2 0x03).rx.len.toNat) := by decide

theorem witness_ReceiverRoundTrip :
    State.reset.rx.state = .waitStx ∧ [(0x01 : Byte), 0x02].length ≤ State.reset.cfg.maxPayload.toNat ∧
      ∀ b ∈ [(0x55 : Byte), 0x03, 0xFF], b ≠ State.reset.cfg.stx := by decide

/-- The first DATA byte, and the CHK byte. -/
theorem witness_ChangedDataOrChkByteIsDetected :
    State.reset.rx.state = .waitStx ∧ [(0x41 : Byte)].length ≤ State.reset.cfg.maxPayload.toNat ∧
      2 ≤ 2 ∧ 3 ≤ [(0x41 : Byte)].length + 2 ∧ (0x01 : Byte) ≠ 0 := by decide

theorem witness_WrongTerminatorIsAFramingError :
    State.reset.rx.state = .waitStx ∧ [(0x01 : Byte), 0x02].length ≤ State.reset.cfg.maxPayload.toNat ∧
      (0x02 : Byte) ≠ State.reset.cfg.etx := by decide

theorem witness_ReceiverClassifiesEverySequence :
    State.reset.rx.state = .waitStx ∧ State.reset.cfg.rxAutoReset = false := by decide

/-- The last index that TXBUF has. -/
theorem witness_TxLoadStoresOneByte :
    arqBusy loaded = false ∧ loaded.tx.state ∈ [TxState.idle, .done, .error] ∧
      (254 : Index).toNat < loaded.cfg.maxPayload.toNat ∧ Memory.wf loaded.tx.buf = true := by decide

theorem witness_TxBeginStartsTheFrame :
    arqBusy loaded = false ∧ (2 : Index).toNat ≤ loaded.cfg.maxPayload.toNat ∧
      [(0x01 : Byte), 0x02].length = (2 : Index).toNat ∧
      ∀ i (h : i < [(0x01 : Byte), 0x02].length), memRead .txbuf i loaded = some [(0x01 : Byte), 0x02][i] := by decide

theorem witness_OverflowingBeginEmitsNothing :
    arqBusy loaded = false ∧ loaded.cfg.maxPayload.toNat < (256 : Index).toNat := by decide

theorem witness_TxNextEmitsInFrameOrder :
    arqBusy (sending .sendStx 0) = false ∧ (sending .sendStx 0).tx.state = .sendStx ∧
      (sending .sendLen 0).tx.state = .sendLen ∧
      (sending .sendData 1).tx.state = .sendData ∧ memRead .txbuf 1 (sending .sendData 1) = some 0x02 ∧
      (sending .sendChk 2).tx.state = .sendChk ∧ (sending .sendEtx 2).tx.state = .sendEtx ∧
      (sending .done 2).tx.state ∈ [TxState.idle, .done, .error] := by decide

theorem witness_TxNextResponseCarriesTheEmission :
    arqBusy (sending .sendEtx 2) = false ∧ ∃ t, exec .txNext (sending .sendEtx 2) = .next t := ⟨rfl, _, rfl⟩

theorem witness_TxResetReturnsToIdle : arqBusy (sending .sendData 1) = false := by decide

theorem witness_TransmitterEmitsTheEncodedFrame :
    arqBusy loaded = false ∧ (2 : Index).toNat ≤ loaded.cfg.maxPayload.toNat ∧
      [(0x01 : Byte), 0x02].length = (2 : Index).toNat ∧
      ∀ i (h : i < [(0x01 : Byte), 0x02].length), memRead .txbuf i loaded = some [(0x01 : Byte), 0x02][i] := by decide

/-- A length above the capacity, and one within it. -/
theorem witness_ArqSendBeginsOrOverflows :
    arqBusy loaded = false ∧ loaded.cfg.maxPayload.toNat < (256 : Index).toNat ∧
      (2 : Index).toNat ≤ loaded.cfg.maxPayload.toNat ∧ [(0x01 : Byte), 0x02].length = (2 : Index).toNat ∧
      ∀ i (h : i < [(0x01 : Byte), 0x02].length), memRead .txbuf i loaded = some [(0x01 : Byte), 0x02][i] := by decide

theorem witness_AckEndsTheWaitOrIsDiscarded :
    ((waiting 0 0).arq.state = .waitAck ∧ (0x06 : Byte) = (waiting 0 0).cfg.ack) ∧
      ((0x07 : Byte) ≠ (waiting 0 0).cfg.ack ∧ (0x07 : Byte) ≠ (waiting 0 0).cfg.nak) ∧
      loaded.arq.state ≠ .waitAck := by decide

/-- The last NAK that retries (1 + 1 < 3) and the one that exhausts the budget (2 + 1 = 3). -/
theorem witness_NakRetriesOrExhausts :
    (waiting 1 0).arq.state = .waitAck ∧ (waiting 1 0).cfg.ack ≠ (waiting 1 0).cfg.nak ∧
      (waiting 2 0).arq.attempts.toNat < (waiting 2 0).cfg.retryBudget.toNat ∧
      (waiting 1 0).tx.len.toNat ≤ (waiting 1 0).cfg.maxPayload.toNat ∧
      [(0x01 : Byte), 0x02].length = (waiting 1 0).tx.len.toNat ∧
      (∀ i (h : i < [(0x01 : Byte), 0x02].length), memRead .txbuf i (waiting 1 0) = some [(0x01 : Byte), 0x02][i]) ∧
      (waiting 1 0).arq.attempts.toNat + 1 < (waiting 1 0).cfg.retryBudget.toNat ∧
      (waiting 2 0).arq.attempts.toNat + 1 = (waiting 2 0).cfg.retryBudget.toNat := by decide

theorem witness_TickInSendingEmitsTheNextByte :
    (arqSending .sendEtx 2).arq.state = .sending ∧ (arqSending .sendEtx 2).tx.state.midFrame = true ∧
      (arqSending .sendEtx 2).out.txoValid = false ∧
      ∃ u, exec .txNext { arqSending .sendEtx 2 with arq := { (arqSending .sendEtx 2).arq with state := .idle } } =
        .next u := ⟨rfl, rfl, rfl, _, rfl⟩

/-- No timeout; the tick before the timeout; the timeout with a retry left; the timeout that exhausts the budget. -/
theorem witness_TickInWaitAckCountsToTheTimeout :
    (waiting 0 0).arq.state = .waitAck ∧ Config.specDefault.ackTimeout = 0 ∧
      (waiting 0 0).arq.timer.toNat + 1 < (waiting 0 0).cfg.ackTimeout.toNat ∧
      ((waiting 1 1).arq.timer.toNat + 1 = (waiting 1 1).cfg.ackTimeout.toNat ∧
        (waiting 1 1).arq.attempts.toNat + 1 < (waiting 1 1).cfg.retryBudget.toNat ∧
        (waiting 1 1).tx.len.toNat ≤ (waiting 1 1).cfg.maxPayload.toNat ∧
        [(0x01 : Byte), 0x02].length = (waiting 1 1).tx.len.toNat ∧
        ∀ i (h : i < [(0x01 : Byte), 0x02].length), memRead .txbuf i (waiting 1 1) = some [(0x01 : Byte), 0x02][i]) ∧
      (waiting 2 1).arq.attempts.toNat + 1 = (waiting 2 1).cfg.retryBudget.toNat := by decide

theorem witness_TickOutsideASendDoesNothing :
    loaded.arq.state ∈ [ArqState.idle, .acked, .exhausted, .overflow] ∧ ∃ t, arqTick true (arqSending .sendStx 0) = .next t :=
  ⟨by decide, _, rfl⟩

theorem witness_ArqSendEmitsTheFrameInFrameTime :
    let s := { loaded with inputs := commandCycle (.arqSend 2) :: (List.replicate 5 CycleInput.idle ++ []) }
    s.cfg.wf = true ∧ arqBusy s = false ∧ (2 : Index).toNat ≤ s.cfg.maxPayload.toNat ∧
      [(0x01 : Byte), 0x02].length = (2 : Index).toNat ∧
      (∀ i (h : i < [(0x01 : Byte), 0x02].length), memRead .txbuf i s = some [(0x01 : Byte), 0x02][i]) ∧
      s.inputs = commandCycle (.arqSend 2) :: (List.replicate ((2 : Index).toNat + 3) CycleInput.idle ++ []) := by decide

/-- An ACK after one NAK, and the NAK that exhausts the budget, of an empty payload. -/
theorem witness_RetryBoundUnderArq :
    let tape (k : Nat) (last : Byte) : List CycleInput :=
      commandCycle (.arqSend 0) :: List.replicate ((0 : Index).toNat + 3) CycleInput.idle ++
        (List.replicate k
          (commandCycle (.ack State.reset.cfg.nak) :: List.replicate ((0 : Index).toNat + 3) CycleInput.idle)).flatten ++
        [commandCycle (.ack last)]
    let s := { State.reset with inputs := tape 1 0x06 }
    let u := { State.reset with inputs := tape 2 0x15 }
    (s.cfg.wf = true ∧ s.cfg.ackTimeout = 0 ∧ arqBusy s = false ∧ (0 : Index).toNat ≤ s.cfg.maxPayload.toNat ∧
      ([] : List Byte).length = (0 : Index).toNat ∧ 1 < s.cfg.retryBudget.toNat ∧ 0x06 = s.cfg.ack ∧
      s.inputs = tape 1 0x06) ∧
    2 < u.cfg.retryBudget.toNat ∧ 0x15 = u.cfg.nak ∧ 2 + 1 = u.cfg.retryBudget.toNat ∧ u.inputs = tape 2 0x15 := by
  decide

theorem witness_CommandsWriteOnlyTheirUnit :
    (∃ t, exec (.chkSeed 0x02) loaded = .next t ∧ t.out.respIll = false) ∧
      ∃ t, arqTick true (arqSending .sendStx 0) = .next t := ⟨⟨_, rfl, rfl⟩, _, rfl⟩

/-- A byte beside the one that TX_LOAD stores. -/
theorem witness_EveryOtherBufferByteIsUnchanged :
    (∃ t, exec (.txLoad 1 0x09) loaded = .next t ∧ memRead .txbuf 0 t = some 0x01) ∧
      (∃ t, exec (.rxFeed 0x09) (rxAt .readData 1 0x01) = .next t ∧ memRead .rxbuf 0 t = some 0x01) ∧
      ∃ t, arqTick true (arqSending .sendStx 0) = .next t := ⟨⟨_, rfl, rfl⟩, ⟨_, rfl, rfl⟩, _, rfl⟩

theorem witness_AtMostOneBytePerCycle :
    ∃ t, exec .txNext (sending .sendStx 0) = .next t ∧ t.out.txoValid = true := ⟨_, rfl, rfl⟩

/-- Two states that differ in the other direction's fields. -/
theorem witness_DirectionsDoNotInterfere :
    let s := presenting loaded false true 0x30000002 true
    let s' := { s with tx := txAt .done 2, ill := true }
    let u' := { s with rx := (rxAt .done 2 0x03).rx, chkAcc := 0x5A }
    (∃ t, step s = .next t) ∧ (∃ t, step s' = .next t) ∧ (∃ t, step u' = .next t) ∧ s.cfg = s'.cfg ∧ s.inputs = s'.inputs ∧
      s.rx = s'.rx ∧ s.chkAcc = s'.chkAcc ∧ s.tx = u'.tx ∧ s.arq = u'.arq :=
  ⟨⟨_, rfl⟩, ⟨_, rfl⟩, ⟨_, rfl⟩, rfl, rfl, rfl, rfl, rfl, rfl⟩

theorem witness_RepeatableCommandsAreIdempotent : ∃ t, exec (.txLoad 1 0x09) loaded = .next t := ⟨_, rfl⟩

/-- A send in progress, in the middle of its data: it has the invariant, and a next state. -/
theorem witness_StepKeepsTheInvariant :
    Inv (arqSending .sendData 1) ∧ ∃ t, step (arqSending .sendData 1) = .next t :=
  ⟨⟨by decide, ⟨by decide, by decide, by decide, by decide, by decide, by decide, by decide⟩,
    ⟨by decide, by decide, by decide, by decide, by decide, by decide, by decide, by decide, by decide⟩,
    ⟨by decide, by decide, by decide, by decide, by decide, by decide⟩⟩, _, rfl⟩

theorem witness_InvariantStatesNeverStop : Inv (arqSending .sendData 1) := witness_StepKeepsTheInvariant.1

/-- The first index beyond a capacity of 1: in TX_NEXT, in the tick, and in RX_READ. -/
theorem witness_InternalReadOutsideABufferFaults :
    let c := { Config.specDefault with maxPayload := 1 }
    let s := { sending .sendData 1 with cfg := c }
    let v := { arqSending .sendData 1 with cfg := c }
    let u := { rxAt .done 2 0x03 with cfg := c }
    (arqBusy s = false ∧ s.tx.state = .sendData ∧ s.cfg.maxPayload.toNat ≤ s.tx.cursor.toNat) ∧
      (v.arq.state = .sending ∧ v.tx.state = .sendData ∧ v.cfg.maxPayload.toNat ≤ v.tx.cursor.toNat) ∧
      u.rx.state = .done ∧ (1 : Index).toNat < u.rx.len.toNat ∧ u.cfg.maxPayload.toNat ≤ (1 : Index).toNat := by decide

end Sys2Proof.Tests
end

/-! PROOFS. Which configurations a step refuses, and that no operation of the engine changes the configuration
(00_scope.md section 4, R5 and R8). -/

/-! ### The configurations that are no instance of the engine -/

namespace Sys2Proof

theorem Config.wf_eq_false_iff (c : Config) :
    c.wf = false ↔ c.stx = c.etx ∨ c.ack = c.nak ∨ c.retryBudget = 0 := by
  have hbudget : c.retryBudget.toNat = 0 ↔ c.retryBudget = 0 := by bv_omega
  simp [Config.wf, hbudget, or_assoc, imp_iff_not_or]

end Sys2Proof

namespace Sys2Proof.Machine

/-! ### Refusals -/

theorem finishCycle_ne_refused {ready : Bool} {o : Host.Outcome State Fault Refusal} {r : Refusal}
    (h : o ≠ .refused r) : finishCycle ready o ≠ .refused r := by
  cases o with
  | next s => exact arqTick_ne_refused
  | fault f => simp
  | refused r' => exact h

/-- A step under a legal configuration is never refused: a reset cycle answers a next state, and in every other cycle
neither the command nor the tick refuses. -/
theorem step_ne_refused_of_wf {s : State} (hc : s.cfg.wf = true) (r : Refusal) : step s ≠ .refused r := by
  cases hr : s.port.rst with
  | true => simp [step_of_reset hc hr]
  | false =>
    cases hv : s.port.cmdValid with
    | false => rw [step_of_idle hc hr hv]; exact arqTick_ne_refused
    | true =>
      cases hd : decode s.port.cmd with
      | illegal e => rw [step_of_illegal hc hr hv hd]; exact arqTick_ne_refused
      | command i => rw [step_of_command hc hr hv hd]; exact finishCycle_ne_refused (exec_ne_refused i _ r)

theorem step_eq_refused_iff {s : State} {r : Refusal} :
    step s = .refused r ↔ r = .badConfig ∧ s.cfg.wf = false := by
  cases hc : s.cfg.wf with
  | true => simp [step_ne_refused_of_wf hc r]
  | false => simp [step_of_badConfig hc, eq_comm]

/-! ### The configuration is constant -/

@[simp] theorem nakEvent_cfg (s : State) : (nakEvent s).cfg = s.cfg := by
  rcases nakEvent_cases s with ⟨-, e⟩ | ⟨-, e⟩ <;> simp [e]

@[simp] theorem acknowledge_cfg (d : Byte) (s : State) : (acknowledge d s).cfg = s.cfg := by
  rcases acknowledge_cases d s with ⟨-, -, e⟩ | ⟨-, -, -, e⟩ | ⟨-, e⟩ <;> simp [e]

theorem arqTick_cfg {ready : Bool} {s t : State} (h : arqTick ready s = .next t) : t.cfg = s.cfg := by
  rcases arqTick_cases h with ⟨-, -, tx, e, -, rfl⟩ | ⟨-, -, rfl⟩ | ⟨-, -, rfl⟩ | ⟨-, -, -, rfl⟩ | ⟨-, -, -, rfl⟩ |
    ⟨-, rfl⟩ <;> simp

theorem exec_cfg {i : Instr} {s t : State} (h : exec i s = .next t) : t.cfg = s.cfg := by
  cases i
  case rxRead a =>
    rcases exec_rxRead_cases a s with ⟨-, -, -, e⟩ | ⟨-, -, -, e⟩ | ⟨-, e⟩ <;> rw [e] at h <;> cases h <;> rfl
  case txNext =>
    rcases exec_txNext_cases s with ⟨-, e⟩ | ⟨-, tx, em, -, e⟩ | ⟨-, -, e⟩ <;> rw [e] at h <;> cases h <;> rfl
  case read d =>
    rcases exec_read_cases d s with ⟨v, -, -, e⟩ | ⟨-, -, e⟩ <;> rw [e] at h <;> cases h <;> rfl
  case txLoad a d => rw [exec_txLoad] at h; cases h; split <;> rfl
  case txBegin a => rw [exec_txBegin] at h; cases h; split <;> rfl
  case txReset => rw [exec_txReset] at h; cases h; split <;> rfl
  case arqSend a => rw [exec_arqSend] at h; cases h; split <;> rfl
  case ack d => rw [exec_ack] at h; cases h; simp
  all_goals cases h; rfl

theorem step_cfg {s t : State} (h : step s = .next t) : t.cfg = s.cfg := by
  obtain ⟨-, ⟨-, rfl⟩ | ⟨-, u, htick, hu⟩⟩ := step_cases h
  · simp
  · have hcommand : u.cfg = s.cfg := by
      rcases hu with ⟨-, rfl⟩ | ⟨-, -, rfl⟩ | ⟨-, i, -, hexec⟩
      · simp
      · simp
      · simpa using exec_cfg hexec
    exact (arqTick_cfg htick).trans hcommand

/-- Settles O11: a step is refused exactly where `Config.wf` fails, and the command and the tick each keep the
configuration. -/
theorem onlyABadConfigurationIsRefused : Obligations.OnlyABadConfigurationIsRefused := by
  unfold Obligations.OnlyABadConfigurationIsRefused
  refine ⟨fun s r => ?_, fun s t => step_cfg⟩
  rw [step_eq_refused_iff, Config.wf_eq_false_iff]

end Sys2Proof.Machine

/-! PROOFS. The state record (10_state.md): its values after reset, the words that READ answers, the sticky flag, and
the invariant of the reachable states, which every step keeps. -/

/-! ### The registers that READ answers -/

namespace Sys2Proof.Machine

theorem extractLsb'_eq_of_getLsbD {w k n : Nat} {x : BitVec w} {v : BitVec n}
    (h : ∀ i < n, x.getLsbD (k + i) = v.getLsbD i) : x.extractLsb' k n = v :=
  BitVec.eq_of_getLsbD_eq fun i hi => by simp [hi, h i hi]

theorem arqBusy_iff (s : State) : arqBusy s = true ↔ s.arq.state = .sending ∨ s.arq.state = .waitAck := by
  unfold arqBusy
  cases s.arq.state <;> simp [ArqState.busy]

theorem gstat_fields (s : State) :
    (gstat s).getLsbD 0 = s.ill ∧ (gstat s).getLsbD 1 = arqBusy s ∧ (gstat s).extractLsb' 2 30 = 0 := by
  refine ⟨by rw [gstat_getLsbD]; simp, by rw [gstat_getLsbD]; simp, ?_⟩
  exact extractLsb'_eq_of_getLsbD fun i hi => by grind [gstat_getLsbD]

theorem rxstat_fields (rx : RxUnit) :
    (rxstat rx).extractLsb' 0 2 = rx.state.status ∧ (rxstat rx).extractLsb' 2 2 = rx.err.code ∧
      (rxstat rx).extractLsb' 4 3 = rx.state.code ∧ (rxstat rx).getLsbD 7 = false ∧
      (rxstat rx).extractLsb' 8 8 = rx.len ∧ (rxstat rx).extractLsb' 16 8 = rx.count ∧
      (rxstat rx).extractLsb' 24 8 = rx.chk := by
  refine ⟨?_, ?_, ?_, by rw [rxstat_getLsbD]; simp, ?_, ?_, ?_⟩
  all_goals exact extractLsb'_eq_of_getLsbD fun i hi => by grind [rxstat_getLsbD]

theorem txstat_fields (tx : TxUnit) :
    (txstat tx).extractLsb' 0 2 = tx.state.status ∧ (txstat tx).extractLsb' 2 2 = tx.err.code ∧
      (txstat tx).extractLsb' 4 3 = tx.state.code ∧ (txstat tx).getLsbD 7 = false ∧
      (txstat tx).extractLsb' 8 8 = tx.len ∧ (txstat tx).extractLsb' 16 8 = tx.cursor ∧
      (txstat tx).extractLsb' 24 8 = tx.chk := by
  refine ⟨?_, ?_, ?_, by rw [txstat_getLsbD]; simp, ?_, ?_, ?_⟩
  all_goals exact extractLsb'_eq_of_getLsbD fun i hi => by grind [txstat_getLsbD]

theorem arqstat_fields (arq : ArqUnit) :
    (arqstat arq).extractLsb' 0 3 = arq.state.code ∧ (arqstat arq).extractLsb' 3 5 = 0 ∧
      (arqstat arq).extractLsb' 8 8 = arq.attempts ∧ (arqstat arq).extractLsb' 16 16 = arq.timer := by
  refine ⟨?_, ?_, ?_, ?_⟩
  all_goals exact extractLsb'_eq_of_getLsbD fun i hi => by grind [arqstat_getLsbD]

theorem byteWord_fields (b : Byte) :
    (byteWord b).extractLsb' 0 8 = b ∧ (byteWord b).extractLsb' 8 24 = 0 := by
  refine ⟨?_, ?_⟩
  all_goals exact extractLsb'_eq_of_getLsbD fun i hi => by grind [byteWord]

theorem param0_fields (c : Config) :
    (param0 c).extractLsb' 0 8 = c.stx ∧ (param0 c).extractLsb' 8 8 = c.etx ∧
      (param0 c).extractLsb' 16 8 = c.ack ∧ (param0 c).extractLsb' 24 8 = c.nak := by
  refine ⟨?_, ?_, ?_, ?_⟩
  all_goals exact extractLsb'_eq_of_getLsbD fun i hi => by grind [param0_getLsbD]

theorem param1_fields (c : Config) :
    (param1 c).extractLsb' 0 8 = c.maxPayload ∧ (param1 c).extractLsb' 8 8 = c.retryBudget ∧
      (param1 c).getLsbD 16 = c.rxAutoReset ∧ (param1 c).extractLsb' 17 15 = 0 := by
  refine ⟨?_, ?_, by rw [param1_getLsbD]; simp, ?_⟩
  all_goals exact extractLsb'_eq_of_getLsbD fun i hi => by grind [param1_getLsbD]

theorem param2_fields (c : Config) :
    (param2 c).extractLsb' 0 16 = c.ackTimeout ∧ (param2 c).extractLsb' 16 16 = 0 := by
  refine ⟨?_, ?_⟩
  all_goals exact extractLsb'_eq_of_getLsbD fun i hi => by grind [param2_getLsbD]

/-- READ of a register answers its word and writes nothing but the outputs (44_system.md R211). -/
theorem exec_read_of_register {d : Byte} {s : State} {v : Word} (h : register d s = some v) :
    exec (.read d) s = .next { s with out := Outputs.response v } := by
  rcases exec_read_cases d s with ⟨v', -, hv, e⟩ | ⟨-, hn, -⟩
  · cases h.symm.trans hv
    exact e
  · cases h.symm.trans hn

/-- Settles O17: the fields are those of the register words, and the state's code is checked state by state. -/
theorem readGstatArqstatChkacc : Obligations.ReadGstatArqstatChkacc := by
  intro s
  obtain ⟨hill, hbusy, hgzero⟩ := gstat_fields s
  obtain ⟨hcode, hazero, hattempts, htimer⟩ := arqstat_fields s.arq
  obtain ⟨hacc, hczero⟩ := byteWord_fields s.chkAcc
  refine ⟨⟨_, exec_read_of_register rfl, hill, ?_, hgzero⟩,
    ⟨_, exec_read_of_register rfl, ?_, hazero, hattempts, htimer⟩, ⟨_, exec_read_of_register rfl, hacc, hczero⟩⟩
  · rw [hbusy, arqBusy_iff]
  · rw [hcode]; cases s.arq.state <;> rfl

/-- Settles O18: the fields of RXSTAT, with each code checked constructor by constructor. -/
theorem readRxstatFields : Obligations.ReadRxstatFields := by
  intro s
  obtain ⟨hstatus, herr, hstate, hzero, hlen, hcount, hchk⟩ := rxstat_fields s.rx
  refine ⟨_, exec_read_of_register rfl, ?_, ?_, ?_, hzero, hlen, hcount, hchk⟩
  · rw [hstatus]; cases s.rx.state <;> rfl
  · rw [herr]; cases s.rx.err <;> rfl
  · rw [hstate]; cases s.rx.state <;> rfl

/-- Settles O19: the fields of TXSTAT, with each code checked constructor by constructor. -/
theorem readTxstatFields : Obligations.ReadTxstatFields := by
  intro s
  obtain ⟨hstatus, herr, hstate, hzero, hlen, hcursor, hchk⟩ := txstat_fields s.tx
  refine ⟨_, exec_read_of_register rfl, ?_, ?_, ?_, hzero, hlen, hcursor, hchk⟩
  · rw [hstatus]; cases s.tx.state <;> rfl
  · rw [herr]; cases s.tx.err <;> rfl
  · rw [hstate]; cases s.tx.state <;> rfl

/-- Settles O20: the fields of the three parameter words; under the spec's values the words are closed terms. -/
theorem readParametersReturnTheConfiguration : Obligations.ReadParametersReturnTheConfiguration := by
  intro s
  obtain ⟨hstx, hetx, hack, hnak⟩ := param0_fields s.cfg
  obtain ⟨hmax, hbudget, hauto, hzero1⟩ := param1_fields s.cfg
  obtain ⟨htimeout, hzero2⟩ := param2_fields s.cfg
  refine ⟨_, _, _, exec_read_of_register rfl, exec_read_of_register rfl, exec_read_of_register rfl,
    hstx, hetx, hack, hnak, hmax, hbudget, hauto, hzero1, htimeout, hzero2, fun hdefault => ?_⟩
  rw [hdefault]
  decide

/-! ### The sticky flag -/

theorem nakEvent_ill (s : State) : (nakEvent s).ill = s.ill := by
  rcases nakEvent_cases s with ⟨-, e⟩ | ⟨-, e⟩ <;> simp [e]

theorem acknowledge_ill (d : Byte) (s : State) : (acknowledge d s).ill = s.ill := by
  rcases acknowledge_cases d s with ⟨-, -, e⟩ | ⟨-, -, -, e⟩ | ⟨-, e⟩ <;> simp [e, nakEvent_ill]

theorem arqTick_ill {ready : Bool} {s t : State} (h : arqTick ready s = .next t) : t.ill = s.ill := by
  rcases arqTick_cases h with ⟨-, -, tx, e, -, rfl⟩ | ⟨-, -, rfl⟩ | ⟨-, -, rfl⟩ | ⟨-, -, -, rfl⟩ | ⟨-, -, -, rfl⟩ |
    ⟨-, rfl⟩ <;> simp [nakEvent_ill]

theorem exec_clrIll_ill {s t : State} (h : exec .clrIll s = .next t) : t.ill = false := by
  cases h; rfl

/-- A command other than CLR_ILL leaves `ill` as it is, or raises it (44_system.md R213). -/
theorem exec_ill_of_ne_clrIll {i : Instr} {s t : State} (hi : i ≠ .clrIll) (h : exec i s = .next t) :
    t.ill = s.ill ∨ t.ill = true := by
  cases i
  case clrIll => exact absurd rfl hi
  case reserved x => cases h; exact .inr rfl
  case rxRead a =>
    rcases exec_rxRead_cases a s with ⟨-, -, -, e⟩ | ⟨-, -, -, e⟩ | ⟨-, e⟩ <;> rw [e] at h <;> cases h <;>
      exact .inl rfl
  case txNext =>
    rcases exec_txNext_cases s with ⟨-, e⟩ | ⟨-, tx, em, -, e⟩ | ⟨-, -, e⟩ <;> rw [e] at h <;> cases h
    · exact .inr rfl
    · exact .inl rfl
  case read d =>
    rcases exec_read_cases d s with ⟨v, -, -, e⟩ | ⟨-, -, e⟩ <;> rw [e] at h <;> cases h
    · exact .inl rfl
    · exact .inr rfl
  case txLoad a d => rw [exec_txLoad] at h; cases h; split <;> simp
  case txBegin a => rw [exec_txBegin] at h; cases h; split <;> simp
  case txReset => rw [exec_txReset] at h; cases h; split <;> simp
  case arqSend a => rw [exec_arqSend] at h; cases h; split <;> simp
  case ack d => rw [exec_ack] at h; cases h; exact .inl (acknowledge_ill d s)
  all_goals cases h; exact .inl rfl

/-- Settles O16: the tick does not touch `ill`, so the question is what the cycle's command does to it. -/
theorem illStaysSetUntilCleared : Obligations.IllStaysSetUntilCleared := by
  intro s t h hill hrst
  obtain ⟨-, ⟨hrst', -⟩ | ⟨-, u, htick, hu⟩⟩ := step_cases h
  · simp [hrst] at hrst'
  rw [arqTick_ill htick]
  rcases hu with ⟨hv, rfl⟩ | ⟨-, ⟨e, hd⟩, rfl⟩ | ⟨hv, i, hd, hexec⟩
  · simp [hv, hill]
  · simp [hd]
  · rw [hd]
    by_cases hi : i = .clrIll
    · subst hi
      simp [hv, exec_clrIll_ill hexec]
    · have hset : u.ill = true := by
        rcases exec_ill_of_ne_clrIll hi hexec with hkept | hraised
        · rw [hkept, State.startCycle_ill, hill]
        · exact hraised
      simp [hset, hi]

/-- Settles O10: closed facts about one state, each by evaluation. -/
theorem resetStateHoldsTheResetValues : Obligations.ResetStateHoldsTheResetValues := by
  unfold Obligations.ResetStateHoldsTheResetValues
  decide

end Sys2Proof.Machine

namespace Sys2Proof.Machine

/-! ### The checksum of a growing packet -/

theorem fold_append (a : Byte) (xs ys : List Byte) : fold a (xs ++ ys) = fold (fold a xs) ys := by
  induction xs generalizing a with
  | nil => rfl
  | cons x xs ih => exact ih (a ^^^ x)

/-- The next byte of a packet, stored after the bytes already there, is folded in last (40_checksum.md R100). -/
theorem fold_slice_store_self (seed len b : Byte) (sp : Space) (m : Memory) (n : Nat) :
    fold seed (len :: Memory.slice sp (Memory.store m n b) (n + 1)) =
      fold seed (len :: Memory.slice sp m n) ^^^ b := by
  rw [Memory.slice_store_self, ← List.cons_append, fold_append, fold_cons, fold_nil]

end Sys2Proof.Machine

namespace Sys2Proof.Safety

open Sys2Proof.Machine

/-! ### The receiver's invariant -/

theorem RxInv.sessionReset {c : Config} {rx : RxUnit} (hwf : Memory.wf rx.buf = true)
    (hinside : Memory.inside c.maxPayload.toNat rx.buf = true) : RxInv c (rxSessionReset rx) := by
  constructor <;> simp [hwf, hinside]

theorem RxInv.of_error {c : Config} {rx : RxUnit} (hs : rx.state = .error) (herr : rx.err ≠ .none)
    (hwf : Memory.wf rx.buf = true) (hinside : Memory.inside c.maxPayload.toNat rx.buf = true) : RxInv c rx := by
  constructor <;> simp [hs, herr, hwf, hinside]

theorem RxInv.of_readData {c : Config} {rx : RxUnit} (hs : rx.state = .readData) (herr : rx.err = .none)
    (hlt : rx.count.toNat < rx.len.toNat) (hmax : rx.len.toNat ≤ c.maxPayload.toNat)
    (hchk : rx.chk = fold c.stx (rx.len :: Memory.slice .rxbuf rx.buf rx.count.toNat))
    (hwf : Memory.wf rx.buf = true) (hinside : Memory.inside c.maxPayload.toNat rx.buf = true) : RxInv c rx := by
  constructor
  case readData => exact fun _ => ⟨hlt, hmax, hchk⟩
  all_goals simp [hs, herr, hwf, hinside]

theorem RxInv.of_body {c : Config} {rx : RxUnit} (hs : rx.state = .checkChk ∨ rx.state = .waitEtx ∨ rx.state = .done)
    (herr : rx.err = .none) (hcount : rx.count = rx.len) (hmax : rx.len.toNat ≤ c.maxPayload.toNat)
    (hchk : rx.chk = fold c.stx (rx.len :: Memory.slice .rxbuf rx.buf rx.len.toNat))
    (hwf : Memory.wf rx.buf = true) (hinside : Memory.inside c.maxPayload.toNat rx.buf = true) : RxInv c rx := by
  constructor
  case body => exact fun _ => ⟨hcount, hmax, hchk⟩
  all_goals rcases hs with hs | hs | hs <;> simp [hs, herr, hwf, hinside]

theorem RxInv.err_eq_none {c : Config} {rx : RxUnit} (h : RxInv c rx) (hs : rx.state ≠ .error) : rx.err = .none := by
  by_contra herr
  exact hs (h.err.mp herr)

theorem RxInv.feedWaitStx {c : Config} {rx : RxUnit} (b : Byte) (h : RxInv c rx) (hs : rx.state = .waitStx) :
    RxInv c (rxFeedWaitStx c b rx) := by
  unfold rxFeedWaitStx
  split
  · constructor <;> simp [h.err_eq_none (by simp [hs]), h.bufWf, h.bufInside]
  · exact h

theorem RxInv.feedWaitLen {c : Config} {rx : RxUnit} (b : Byte) (h : RxInv c rx) (hs : rx.state = .waitLen) :
    RxInv c (rxFeedWaitLen c b rx) := by
  have herr := h.err_eq_none (by simp [hs])
  obtain ⟨hcount, hchk⟩ := h.waitLen hs
  unfold rxFeedWaitLen
  split
  · exact .of_error rfl (by simp) h.bufWf h.bufInside
  next hmax =>
    split
    next hzero =>
      subst hzero
      exact .of_body (.inl rfl) herr hcount (by simp) (by simp [hchk]) h.bufWf h.bufInside
    next hzero =>
      have hpos : 0 < b.toNat := by bv_omega
      exact .of_readData rfl herr (by simpa [hcount] using hpos) (by simpa using hmax) (by simp [hchk, hcount])
        h.bufWf h.bufInside

theorem RxInv.feedReadData {c : Config} {rx : RxUnit} (b : Byte) (h : RxInv c rx) (hs : rx.state = .readData) :
    RxInv c (rxFeedReadData c b rx) := by
  have herr := h.err_eq_none (by simp [hs])
  obtain ⟨hlt, hmax, hchk⟩ := h.readData hs
  have hsucc : (rx.count + 1).toNat = rx.count.toNat + 1 := by bv_omega
  have hwf := Memory.wf_store rx.count.toNat b h.bufWf
  have hinside := Memory.inside_store b (show rx.count.toNat < c.maxPayload.toNat by omega) h.bufInside
  have hfold : rx.chk ^^^ b =
      fold c.stx (rx.len :: Memory.slice .rxbuf (Memory.store rx.buf rx.count.toNat b) (rx.count + 1).toNat) := by
    rw [hsucc, fold_slice_store_self, hchk]
  unfold rxFeedReadData
  rw [if_neg (by omega)]
  by_cases hlast : rx.count + 1 = rx.len
  · rw [if_pos hlast]
    exact .of_body (.inl rfl) herr hlast hmax (hlast ▸ hfold) hwf hinside
  · rw [if_neg hlast]
    exact .of_readData hs herr (by bv_omega) hmax hfold hwf hinside

theorem RxInv.feedCheckChk {c : Config} {rx : RxUnit} (b : Byte) (h : RxInv c rx) (hs : rx.state = .checkChk) :
    RxInv c (rxFeedCheckChk b rx) := by
  obtain ⟨hcount, hmax, hchk⟩ := h.body (.inl hs)
  unfold rxFeedCheckChk
  split
  · exact .of_body (.inr (.inl rfl)) (h.err_eq_none (by simp [hs])) hcount hmax hchk h.bufWf h.bufInside
  · exact .of_error rfl (by simp) h.bufWf h.bufInside

theorem RxInv.feedWaitEtx {c : Config} {rx : RxUnit} (b : Byte) (h : RxInv c rx) (hs : rx.state = .waitEtx) :
    RxInv c (rxFeedWaitEtx c b rx) := by
  obtain ⟨hcount, hmax, hchk⟩ := h.body (.inr (.inl hs))
  unfold rxFeedWaitEtx
  split
  · exact .of_body (.inr (.inr rfl)) (h.err_eq_none (by simp [hs])) hcount hmax hchk h.bufWf h.bufInside
  · exact .of_error rfl (by simp) h.bufWf h.bufInside

theorem RxInv.feedTerminal {c : Config} {rx : RxUnit} (b : Byte) (h : RxInv c rx) : RxInv c (rxFeedTerminal c b rx) := by
  unfold rxFeedTerminal
  split
  · exact (RxInv.sessionReset h.bufWf h.bufInside).feedWaitStx b rfl
  · exact h

theorem RxInv.feed {c : Config} {rx : RxUnit} (b : Byte) (h : RxInv c rx) : RxInv c (rxFeed c b rx) := by
  rcases rxFeed_cases c b rx with ⟨hs, e⟩ | ⟨hs, e⟩ | ⟨hs, e⟩ | ⟨hs, e⟩ | ⟨hs, e⟩ | ⟨-, e⟩ <;> rw [e]
  · exact h.feedWaitStx b hs
  · exact h.feedWaitLen b hs
  · exact h.feedReadData b hs
  · exact h.feedCheckChk b hs
  · exact h.feedWaitEtx b hs
  · exact h.feedTerminal b

/-! ### The transmitter's invariant -/

theorem TxInv.sessionReset {c : Config} {tx : TxUnit} (hwf : Memory.wf tx.buf = true)
    (hinside : Memory.inside c.maxPayload.toNat tx.buf = true) : TxInv c (txSessionReset tx) := by
  constructor <;> simp [TxState.midFrame, hwf, hinside]

theorem TxInv.begin {c : Config} {tx : TxUnit} (n : Index) (h : TxInv c tx) : TxInv c (txBegin c n tx) := by
  rcases Nat.lt_or_ge c.maxPayload.toNat n.toNat with hgt | hle
  · rw [txBegin_of_gt hgt]
    constructor <;> simp [TxState.midFrame, h.bufWf, h.bufInside]
  · have hn : (n.setWidth 8).toNat = n.toNat := by bv_omega
    rw [txBegin_of_le hle]
    constructor
    case frame => exact fun _ => ⟨by rw [hn]; exact hle, by rw [hn]⟩
    all_goals simp [h.bufWf, h.bufInside]

/-- A byte loaded outside a frame is under no checksum (42_transmitter.md R151). -/
theorem TxInv.load {c : Config} {tx : TxUnit} {i : Nat} (d : Byte) (h : TxInv c tx)
    (hrest : tx.state.midFrame = false) (hi : i < c.maxPayload.toNat) :
    TxInv c { tx with buf := Memory.store tx.buf i d } :=
  { h with
    frame := fun hmid => by simp [hrest] at hmid
    bufWf := Memory.wf_store i d h.bufWf
    bufInside := Memory.inside_store d hi h.bufInside }

/-- While a frame is emitted only the position in it moves: tx_len, tx_chk and TXBUF stay, so the invariant asks of the
next position only that the cursor fits the state. -/
theorem TxInv.advance {c : Config} {tx : TxUnit} {st : TxState} {cur : Byte} (h : TxInv c tx)
    (hmid : tx.state.midFrame = true) (hlive : st ≠ .idle ∧ st ≠ .error)
    (hhead : st = .sendStx ∨ st = .sendLen → cur = 0) (hdata : st = .sendData → cur.toNat < tx.len.toNat)
    (htail : st = .sendChk ∨ st = .sendEtx ∨ st = .done → cur = tx.len) :
    TxInv c { tx with cursor := cur, state := st } := by
  have herr : tx.err ≠ .overflow := fun herr => by simp [h.err.mp herr, TxState.midFrame] at hmid
  exact
    { rest := by simp [hlive]
      err := by simp [herr, hlive]
      head := hhead, data := hdata, tail := htail
      frame := fun _ => h.frame hmid
      doneLen := fun _ => (h.frame hmid).1
      bufWf := h.bufWf
      bufInside := h.bufInside }

theorem TxInv.next {c : Config} {tx tx' : TxUnit} {e : Option Emission} (h : TxInv c tx)
    (hx : txNext c tx = .ok (tx', e)) : TxInv c tx' := by
  rcases txNext_cases hx with ⟨hs, rfl, -⟩ | ⟨hs, rfl, -⟩ | ⟨hs, -, rfl, -⟩ | ⟨hs, rfl, -⟩ | ⟨hs, rfl, -⟩ | ⟨-, rfl, -⟩
  · exact h.advance (by rw [hs]; rfl) (by simp) (fun _ => h.head (.inl hs)) (by simp) (by simp)
  · have hcursor := h.head (.inr hs)
    by_cases hempty : tx.len = 0
    · rw [if_pos hempty]
      exact h.advance (by rw [hs]; rfl) (by simp) (by simp) (by simp) (fun _ => hcursor.trans hempty.symm)
    · rw [if_neg hempty]
      exact h.advance (by rw [hs]; rfl) (by simp) (by simp) (fun _ => by bv_omega) (by simp)
  · have hcursor := h.data hs
    by_cases hlast : tx.cursor + 1 = tx.len
    · rw [if_pos hlast]
      exact h.advance (by rw [hs]; rfl) (by simp) (by simp) (by simp) (fun _ => hlast)
    · rw [if_neg hlast]
      exact h.advance (by rw [hs]; rfl) (by simp) (by simp) (fun _ => by bv_omega) (by simp)
  · exact h.advance (by rw [hs]; rfl) (by simp) (by simp) (by simp) (fun _ => h.tail (.inl hs))
  · exact h.advance (by rw [hs]; rfl) (by simp) (by simp) (by simp) (fun _ => h.tail (.inr (.inl hs)))
  · exact h

/-- In a frame tx_next either stays in it or emits its last byte and is Done (42_transmitter.md R157). -/
theorem txNext_midFrame_or_done {c : Config} {tx tx' : TxUnit} {e : Option Emission}
    (hx : txNext c tx = .ok (tx', e)) (hmid : tx.state.midFrame = true) :
    (e.elim false Emission.final = false ∧ tx'.state.midFrame = true) ∨
      (e.elim false Emission.final = true ∧ tx'.state = .done) := by
  rcases txNext_cases hx with ⟨-, rfl, rfl⟩ | ⟨-, rfl, rfl⟩ | ⟨-, -, rfl, rfl⟩ | ⟨-, rfl, rfl⟩ | ⟨-, rfl, rfl⟩ |
    ⟨hs, -, -⟩
  · exact .inl ⟨rfl, rfl⟩
  · exact .inl ⟨rfl, by dsimp only; split <;> rfl⟩
  · exact .inl ⟨rfl, by dsimp only; split <;> rfl⟩
  · exact .inl ⟨rfl, rfl⟩
  · exact .inr ⟨rfl, rfl⟩
  · rcases hs with hs | hs | hs <;> simp [hs, TxState.midFrame] at hmid

/-! ### The controller's invariant -/

theorem ArqInv.congr {s t : State} (h : ArqInv s) (hcfg : t.cfg = s.cfg) (harq : t.arq = s.arq)
    (htx : t.tx.state = s.tx.state) : ArqInv t := by
  have hbusy : arqBusy t = arqBusy s := by rw [arqBusy, arqBusy, harq]
  constructor <;> rw [harq]
  · rw [htx]; exact h.sending
  · rw [htx]; exact h.waitAck
  · rw [hbusy, hcfg]; exact h.busy
  · rw [hcfg]; exact h.exhausted
  · rw [hcfg]; exact h.timer
  · rw [hcfg]; exact h.waiting

theorem ArqInv.of_not_busy {s : State} (hbusy : arqBusy s = false)
    (hexhausted : s.arq.state = .exhausted → s.arq.attempts = s.cfg.retryBudget)
    (htimer : s.arq.timer.toNat ≤ s.cfg.ackTimeout.toNat) : ArqInv s := by
  have hsending : s.arq.state ≠ .sending := fun hs => by simp [(arqBusy_iff s).mpr (.inl hs)] at hbusy
  have hwaitAck : s.arq.state ≠ .waitAck := fun hs => by simp [(arqBusy_iff s).mpr (.inr hs)] at hbusy
  constructor
  case exhausted => exact hexhausted
  case timer => exact htimer
  all_goals simp [hsending, hwaitAck, hbusy]

theorem ArqInv.of_sending {s : State} (hs : s.arq.state = .sending) (hmid : s.tx.state.midFrame = true)
    (hattempts : s.arq.attempts.toNat < s.cfg.retryBudget.toNat)
    (htimer : s.arq.timer.toNat ≤ s.cfg.ackTimeout.toNat) : ArqInv s := by
  constructor <;> simp [hs, hmid, hattempts, htimer]

theorem ArqInv.of_waitAck {s : State} (hs : s.arq.state = .waitAck) (hdone : s.tx.state = .done)
    (hattempts : s.arq.attempts.toNat < s.cfg.retryBudget.toNat)
    (htimer : s.arq.timer.toNat ≤ s.cfg.ackTimeout.toNat)
    (hwaiting : s.cfg.ackTimeout ≠ 0 → s.arq.timer.toNat < s.cfg.ackTimeout.toNat) : ArqInv s := by
  constructor
  case waiting => exact fun _ => hwaiting
  all_goals simp [hs, hdone, hattempts, htimer]

/-! ### The invariant under each update of the state -/

theorem Inv.congr {s t : State} (h : Inv s) (hcfg : t.cfg = s.cfg) (hrx : t.rx = s.rx) (htx : t.tx = s.tx)
    (harq : t.arq = s.arq) : Inv t :=
  { cfg := by rw [hcfg]; exact h.cfg
    rx := by rw [hcfg, hrx]; exact h.rx
    tx := by rw [hcfg, htx]; exact h.tx
    arq := h.arq.congr hcfg harq (by rw [htx]) }

theorem Inv.respond {s : State} (v : Word) (h : Inv s) : Inv (s.respond v) := h.congr rfl rfl rfl rfl

theorem Inv.raiseIllegal {s : State} (h : Inv s) : Inv (raiseIllegal s) := h.congr rfl rfl rfl rfl

theorem Inv.startCycle {s : State} (h : Inv s) : Inv s.startCycle := h.congr rfl rfl rfl rfl

theorem Inv.setRx {s : State} {rx : RxUnit} (h : Inv s) (hrx : RxInv s.cfg rx) : Inv (s.setRx rx) :=
  ⟨h.cfg, hrx, h.tx, h.arq.congr rfl rfl rfl⟩

/-- While the controller is not busy it asks nothing of the transmitter. -/
theorem Inv.setTx {s : State} {tx : TxUnit} (h : Inv s) (hbusy : arqBusy s = false) (htx : TxInv s.cfg tx) :
    Inv (s.setTx tx) :=
  ⟨h.cfg, h.rx, htx, .of_not_busy hbusy h.arq.exhausted h.arq.timer⟩

/-- Reset needs of the state before it only a legal configuration and the form of the buffers, which it keeps. -/
theorem Inv.resetState {s : State} (hcfg : s.cfg.wf = true)
    (hrx : Memory.wf s.rx.buf = true ∧ Memory.inside s.cfg.maxPayload.toNat s.rx.buf = true)
    (htx : Memory.wf s.tx.buf = true ∧ Memory.inside s.cfg.maxPayload.toNat s.tx.buf = true) : Inv (resetState s) :=
  ⟨hcfg, .sessionReset hrx.1 hrx.2, .sessionReset htx.1 htx.2, .of_not_busy rfl (by simp) (by simp)⟩

/-! ### The invariant under the controller's operations -/

/-- A NAK or a timeout finds the frame sent, an attempt left and a timer within its bound. The retry restarts a frame
whose length is within the capacity, so it does not overflow. -/
theorem Inv.nakEvent {s : State} (hcfg : s.cfg.wf = true) (hrx : RxInv s.cfg s.rx) (htx : TxInv s.cfg s.tx)
    (hdone : s.tx.state = .done) (hattempts : s.arq.attempts.toNat < s.cfg.retryBudget.toNat)
    (htimer : s.arq.timer.toNat ≤ s.cfg.ackTimeout.toNat) : Inv (nakEvent s) := by
  rcases nakEvent_cases s with ⟨hleft, e⟩ | ⟨hspent, e⟩ <;> rw [e]
  · have hlen : (s.tx.len.setWidth 9 : Index).toNat ≤ s.cfg.maxPayload.toNat := by
      have := htx.doneLen hdone
      bv_omega
    have hmid : (txBegin s.cfg (s.tx.len.setWidth 9) s.tx).state.midFrame = true := by rw [txBegin_of_le hlen]; rfl
    exact ⟨hcfg, hrx, htx.begin _, .of_sending rfl hmid hleft htimer⟩
  · have hbudget : s.arq.attempts + 1 = s.cfg.retryBudget := by bv_omega
    exact ⟨hcfg, hrx, htx, .of_not_busy rfl (fun _ => hbudget) htimer⟩

theorem Inv.acknowledge {s : State} (d : Byte) (h : Inv s) : Inv (acknowledge d s) := by
  rcases acknowledge_cases d s with ⟨-, -, e⟩ | ⟨hs, -, -, e⟩ | ⟨-, e⟩ <;> rw [e]
  · exact ⟨h.cfg, h.rx, h.tx, .of_not_busy rfl (by simp) h.arq.timer⟩
  · exact .nakEvent h.cfg h.rx h.tx (h.arq.waitAck hs) (h.arq.busy ((arqBusy_iff s).mpr (.inr hs))) h.arq.timer
  · exact h

/-- ARQ_SEND leaves the controller in SENDING over a frame just begun, or in OVERFLOW (43_arq.md R182). -/
theorem Inv.arqSend {s : State} (a : Index) (h : Inv s) :
    Inv ((s.setTx (txBegin s.cfg a s.tx)).setArq (arqAfterSend (txBegin s.cfg a s.tx))) := by
  refine ⟨h.cfg, h.rx, h.tx.begin a, ?_⟩
  rcases Nat.lt_or_ge s.cfg.maxPayload.toNat a.toNat with hgt | hle
  · rw [txBegin_of_gt hgt]
    exact .of_not_busy rfl (by simp [arqAfterSend]) (by simp [arqAfterSend])
  · have hbudget : 0 < s.cfg.retryBudget.toNat := by
      have := h.cfg
      simp only [Config.wf, Bool.and_eq_true, decide_eq_true_eq] at this
      exact this.2
    rw [txBegin_of_le hle]
    exact .of_sending rfl rfl (by simpa [arqAfterSend] using hbudget) (by simp [arqAfterSend])

/-- The tick's byte: the frame goes on in SENDING, or its last byte starts the wait with the timer at 0 (43_arq.md R189). -/
theorem Inv.tickEmission {s : State} {tx : TxUnit} {e : Option Emission} (h : Inv s) (hs : s.arq.state = .sending)
    (hx : txNext s.cfg s.tx = .ok (tx, e)) : Inv ((s.setTx tx).setArq (arqAfterEmission s.arq e)) := by
  have hattempts := h.arq.busy ((arqBusy_iff s).mpr (.inl hs))
  refine ⟨h.cfg, h.rx, h.tx.next hx, ?_⟩
  unfold arqAfterEmission
  rcases txNext_midFrame_or_done hx (h.arq.sending hs) with ⟨hfinal, hmid⟩ | ⟨hfinal, hdone⟩ <;> rw [hfinal]
  · exact .of_sending hs hmid hattempts h.arq.timer
  · exact .of_waitAck rfl hdone hattempts (Nat.zero_le _) (fun hne => BitVec.toNat_pos_of_ne_zero hne)

theorem Inv.arqTick {ready : Bool} {s t : State} (h : Inv s) (ht : arqTick ready s = .next t) : Inv t := by
  rcases arqTick_cases ht with ⟨hs, -, tx, e, hx, rfl⟩ | ⟨-, -, rfl⟩ | ⟨-, -, rfl⟩ | ⟨hs, -, hover, rfl⟩ |
    ⟨hs, hne, hmore, rfl⟩ | ⟨-, rfl⟩
  · exact (h.tickEmission hs hx).congr (by simp) (by simp) (by simp) (by simp)
  · exact h
  · exact h
  · have hattempts := h.arq.busy ((arqBusy_iff s).mpr (.inr hs))
    exact .nakEvent h.cfg h.rx h.tx (h.arq.waitAck hs) hattempts (congrArg BitVec.toNat hover).le
  · have hattempts := h.arq.busy ((arqBusy_iff s).mpr (.inr hs))
    have hlt : (s.arq.timer + 1).toNat < s.cfg.ackTimeout.toNat := by
      have := h.arq.waiting hs hne
      bv_omega
    exact ⟨h.cfg, h.rx, h.tx, .of_waitAck hs (h.arq.waitAck hs) hattempts hlt.le (fun _ => hlt)⟩
  · exact h

/-! ### The invariant under every command and every cycle -/

theorem loadIllegal_eq_false_iff (a : Index) (s : State) :
    loadIllegal a s = false ↔
      arqBusy s = false ∧ s.tx.state.midFrame = false ∧ a.toNat < s.cfg.maxPayload.toNat := by
  simp [loadIllegal, and_assoc]

theorem Inv.exec {i : Instr} {s t : State} (h : Inv s) (ht : exec i s = .next t) : Inv t := by
  cases i
  case rxFeed d => cases ht; exact (h.setRx (h.rx.feed d)).respond _
  case rxReset => cases ht; exact (h.setRx (.sessionReset h.rx.bufWf h.rx.bufInside)).respond _
  case rxRead a =>
    rcases exec_rxRead_cases a s with ⟨-, -, -, e⟩ | ⟨-, -, -, e⟩ | ⟨-, e⟩ <;> rw [e] at ht <;> cases ht <;>
      exact h.respond _
  case txLoad a d =>
    rw [exec_txLoad] at ht
    cases ht
    cases hill : loadIllegal a s with
    | true => exact h.raiseIllegal
    | false =>
      obtain ⟨hbusy, hrest, ha⟩ := (loadIllegal_eq_false_iff a s).mp hill
      exact (h.setTx hbusy (h.tx.load d hrest ha)).respond _
  case txBegin a =>
    rw [exec_txBegin] at ht
    cases ht
    cases hbusy : arqBusy s with
    | true => exact h.raiseIllegal
    | false => exact (h.setTx hbusy (h.tx.begin a)).respond _
  case txNext =>
    rcases exec_txNext_cases s with ⟨-, e⟩ | ⟨hbusy, tx, em, hx, e⟩ | ⟨-, -, e⟩ <;> rw [e] at ht <;> cases ht
    · exact h.raiseIllegal
    · exact (h.setTx hbusy (h.tx.next hx)).congr rfl rfl rfl rfl
  case txReset =>
    rw [exec_txReset] at ht
    cases ht
    cases hbusy : arqBusy s with
    | true => exact h.raiseIllegal
    | false => exact (h.setTx hbusy (.sessionReset h.tx.bufWf h.tx.bufInside)).respond _
  case arqSend a =>
    rw [exec_arqSend] at ht
    cases ht
    cases arqBusy s with
    | true => exact h.raiseIllegal
    | false => exact (h.arqSend a).respond _
  case ack d => cases ht; exact (h.acknowledge d).respond _
  case arqAbort =>
    have htx : TxInv s.cfg (if arqBusy s then txSessionReset s.tx else s.tx) := by
      split
      · exact .sessionReset h.tx.bufWf h.tx.bufInside
      · exact h.tx
    cases ht
    exact ⟨h.cfg, h.rx, htx, .of_not_busy rfl (by simp) (by simp)⟩
  case read d =>
    rcases exec_read_cases d s with ⟨v, -, -, e⟩ | ⟨-, -, e⟩ <;> rw [e] at ht <;> cases ht
    · exact h.respond v
    · exact h.raiseIllegal
  all_goals cases ht; exact h.congr rfl rfl rfl rfl

theorem Inv.step {s t : State} (h : Inv s) (ht : step s = .next t) : Inv t := by
  obtain ⟨hcfg, ⟨-, rfl⟩ | ⟨-, u, htick, hu⟩⟩ := step_cases ht
  · exact .resetState hcfg ⟨h.rx.bufWf, h.rx.bufInside⟩ ⟨h.tx.bufWf, h.tx.bufInside⟩
  · have hcommand : Inv u := by
      rcases hu with ⟨-, rfl⟩ | ⟨-, -, rfl⟩ | ⟨-, i, -, hexec⟩
      · exact h.startCycle
      · exact h.startCycle.raiseIllegal
      · exact h.startCycle.exec hexec
    exact hcommand.arqTick htick

/-- Settles O57: the reset state is a fixed point of reset, under the spec's configuration and with empty buffers. -/
theorem resetStateHasTheInvariant : Obligations.ResetStateHasTheInvariant :=
  show Inv (resetState State.reset) from .resetState (by decide) ⟨rfl, rfl⟩ ⟨rfl, rfl⟩

/-- Settles O58: the command and the tick each keep the invariant, and reset establishes it. -/
theorem stepKeepsTheInvariant : Obligations.StepKeepsTheInvariant := by
  unfold Obligations.StepKeepsTheInvariant
  exact fun s t h ht => h.step ht

end Sys2Proof.Safety

/-! PROOFS. The engine's memory (20_memory.md): what each command and the tick write, that an internal access leaves a
buffer in no reachable state, which commands may be repeated, and that the two directions do not interfere. -/

/-! ### What a command leaves alone -/

namespace Sys2Proof.Machine

theorem exec_rxRead_next {a : Index} {s t : State} (h : exec (.rxRead a) s = .next t) : ∃ v, t = s.respond v := by
  rcases exec_rxRead_cases a s with ⟨-, -, -, e⟩ | ⟨-, -, -, e⟩ | ⟨-, e⟩ <;> rw [e] at h <;> cases h <;>
    exact ⟨_, rfl⟩

theorem exec_read_next {d : Byte} {s t : State} (h : exec (.read d) s = .next t) :
    (∃ v, t = s.respond v) ∨ (7 < d.toNat ∧ t = raiseIllegal s) := by
  rcases exec_read_cases d s with ⟨v, -, -, e⟩ | ⟨hd, -, e⟩ <;> rw [e] at h <;> cases h
  · exact .inl ⟨v, rfl⟩
  · exact .inr ⟨hd, rfl⟩

@[simp] theorem nakEvent_rx (s : State) : (nakEvent s).rx = s.rx := by
  rcases nakEvent_cases s with ⟨-, e⟩ | ⟨-, e⟩ <;> simp [e]

@[simp] theorem nakEvent_chkAcc (s : State) : (nakEvent s).chkAcc = s.chkAcc := by
  rcases nakEvent_cases s with ⟨-, e⟩ | ⟨-, e⟩ <;> simp [e]

@[simp] theorem acknowledge_rx (d : Byte) (s : State) : (acknowledge d s).rx = s.rx := by
  rcases acknowledge_cases d s with ⟨-, -, e⟩ | ⟨-, -, -, e⟩ | ⟨-, e⟩ <;> simp [e]

@[simp] theorem acknowledge_chkAcc (d : Byte) (s : State) : (acknowledge d s).chkAcc = s.chkAcc := by
  rcases acknowledge_cases d s with ⟨-, -, e⟩ | ⟨-, -, -, e⟩ | ⟨-, e⟩ <;> simp [e]

theorem acknowledge_buf (d : Byte) (s : State) : (acknowledge d s).tx.buf = s.tx.buf := by
  rcases acknowledge_cases d s with ⟨-, -, e⟩ | ⟨-, -, -, e⟩ | ⟨-, e⟩ <;> simp [e, nakEvent_buf]

/-- The receiver after a command: only RX_FEED and RX_RESET reach it, and it depends on itself and the configuration. -/
def rxAfter (c : Config) (rx : RxUnit) : Instr → RxUnit
  | .rxFeed d => rxFeed c d rx
  | .rxReset => rxSessionReset rx
  | _ => rx

/-- The accumulator after a command: only CHK_SEED and CHK_FOLD reach it. -/
def chkAfter (acc : Byte) : Instr → Byte
  | .chkSeed d => d
  | .chkFold d => acc ^^^ d
  | _ => acc

/-- TXBUF after a command: only a legal TX_LOAD writes it. -/
def txBufAfter (s : State) : Instr → Memory
  | .txLoad a d => if loadIllegal a s then s.tx.buf else Memory.store s.tx.buf a.toNat d
  | _ => s.tx.buf

/-- What a command that took `s` to `t` did to the fields that one family of commands alone may write. -/
structure OwnedFieldsAfter (i : Instr) (s t : State) : Prop where
  rx : t.rx = rxAfter s.cfg s.rx i
  chkAcc : t.chkAcc = chkAfter s.chkAcc i
  txBuf : t.tx.buf = txBufAfter s i

theorem exec_ownedFields {i : Instr} {s t : State} (h : exec i s = .next t) : OwnedFieldsAfter i s t := by
  cases i
  case rxRead a => obtain ⟨v, rfl⟩ := exec_rxRead_next h; exact ⟨rfl, rfl, rfl⟩
  case read d => rcases exec_read_next h with ⟨v, rfl⟩ | ⟨-, rfl⟩ <;> exact ⟨rfl, rfl, rfl⟩
  case txNext =>
    rcases exec_txNext_cases s with ⟨-, e⟩ | ⟨-, tx, em, hx, e⟩ | ⟨-, -, e⟩ <;> rw [e] at h <;> cases h
    · exact ⟨rfl, rfl, rfl⟩
    · exact ⟨rfl, rfl, txNext_buf hx⟩
  case txLoad a d =>
    rw [exec_txLoad] at h
    cases h
    split <;> rename_i hill
    · exact ⟨rfl, rfl, (if_pos hill).symm⟩
    · exact ⟨rfl, rfl, (if_neg hill).symm⟩
  case txBegin a => rw [exec_txBegin] at h; cases h; split <;> exact ⟨rfl, rfl, by simp [txBufAfter]⟩
  case txReset => rw [exec_txReset] at h; cases h; split <;> exact ⟨rfl, rfl, rfl⟩
  case arqSend a => rw [exec_arqSend] at h; cases h; split <;> exact ⟨rfl, rfl, by simp [txBufAfter]⟩
  case ack d => cases h; exact ⟨acknowledge_rx d s, acknowledge_chkAcc d s, acknowledge_buf d s⟩
  case arqAbort =>
    have hbuf : (if arqBusy s then txSessionReset s.tx else s.tx).buf = s.tx.buf := by split <;> rfl
    cases h
    exact ⟨rfl, rfl, hbuf⟩
  all_goals cases h; exact ⟨rfl, rfl, rfl⟩

/-- The tick writes neither the receiver, nor the accumulator, nor TXBUF. -/
theorem arqTick_frame {ready : Bool} {s t : State} (h : arqTick ready s = .next t) :
    t.rx = s.rx ∧ t.chkAcc = s.chkAcc ∧ t.tx.buf = s.tx.buf := by
  rcases arqTick_cases h with ⟨-, -, tx, e, hx, rfl⟩ | ⟨-, -, rfl⟩ | ⟨-, -, rfl⟩ | ⟨-, -, -, rfl⟩ | ⟨-, -, -, rfl⟩ |
    ⟨-, rfl⟩
  · simp [txNext_buf hx]
  · exact ⟨rfl, rfl, rfl⟩
  · exact ⟨rfl, rfl, rfl⟩
  · exact ⟨nakEvent_rx _, nakEvent_chkAcc _, nakEvent_buf _⟩
  · exact ⟨rfl, rfl, rfl⟩
  · exact ⟨rfl, rfl, rfl⟩

theorem arqTick_rx {ready : Bool} {s t : State} (h : arqTick ready s = .next t) : t.rx = s.rx := (arqTick_frame h).1

theorem arqTick_chkAcc {ready : Bool} {s t : State} (h : arqTick ready s = .next t) : t.chkAcc = s.chkAcc :=
  (arqTick_frame h).2.1

theorem arqTick_txBuf {ready : Bool} {s t : State} (h : arqTick ready s = .next t) : t.tx.buf = s.tx.buf :=
  (arqTick_frame h).2.2

/-! ### The bytes that reads answer -/

theorem memRead_congr {s t : State} {sp : Space} {k : Nat} (hcfg : t.cfg = s.cfg)
    (hbyte : Memory.byteAt sp (t.buffer sp) k = Memory.byteAt sp (s.buffer sp) k) :
    memRead sp k t = memRead sp k s := by
  simp only [memRead, hcfg, hbyte]

theorem exec_txbuf_byteAt {i : Instr} {s t : State} {k : Nat} (h : exec i s = .next t)
    (hi : ∀ a d, i = .txLoad a d → k ≠ a.toNat) :
    Memory.byteAt .txbuf t.tx.buf k = Memory.byteAt .txbuf s.tx.buf k := by
  rw [(exec_ownedFields h).txBuf]
  cases i with
  | txLoad a d =>
    show Memory.byteAt .txbuf (if loadIllegal a s then s.tx.buf else Memory.store s.tx.buf a.toNat d) k = _
    split
    · rfl
    · exact Memory.byteAt_store_other _ _ _ (hi a d rfl)
  | _ => rfl

theorem exec_rxbuf_byteAt {i : Instr} {s t : State} {k : Nat} (h : exec i s = .next t)
    (hi : ∀ d, i = .rxFeed d → s.rx.state = .readData → k ≠ s.rx.count.toNat) :
    Memory.byteAt .rxbuf t.rx.buf k = Memory.byteAt .rxbuf s.rx.buf k := by
  rw [(exec_ownedFields h).rx]
  cases i with
  | rxFeed d =>
    show Memory.byteAt .rxbuf (rxFeed s.cfg d s.rx).buf k = _
    rw [rxFeed_buf]
    split
    · rename_i hstore
      exact Memory.byteAt_store_other _ _ _ (hi d rfl hstore.1)
    · rfl
  | _ => rfl

/-- Settles O53: TXBUF changes by TX_LOAD's store alone and RXBUF by the store of RX_FEED in ReadData alone. -/
theorem everyOtherBufferByteIsUnchanged : Obligations.EveryOtherBufferByteIsUnchanged := by
  unfold Obligations.EveryOtherBufferByteIsUnchanged
  constructor
  · intro i s t h sp k hload hfeed
    refine memRead_congr (exec_cfg h) ?_
    cases sp with
    | txbuf => exact exec_txbuf_byteAt h fun a d hi hk => hload a d hi ⟨rfl, hk⟩
    | rxbuf => exact exec_rxbuf_byteAt h fun d hi hs hk => hfeed d hi ⟨rfl, hs, hk⟩
  · intro ready s t h sp k
    refine memRead_congr (arqTick_cfg h) ?_
    cases sp with
    | txbuf => exact congrArg (Memory.byteAt .txbuf · k) (arqTick_txBuf h)
    | rxbuf => exact congrArg (fun rx : RxUnit => Memory.byteAt .rxbuf rx.buf k) (arqTick_rx h)

/-! ### Commands that may be repeated -/

theorem exec_read_respond (d : Byte) (s : State) (v : Word) : exec (.read d) (s.respond v) = exec (.read d) s := rfl

theorem exec_rxRead_respond (a : Index) (s : State) (v : Word) :
    exec (.rxRead a) (s.respond v) = exec (.rxRead a) s := rfl

theorem exec_read_of_gt {d : Byte} {s : State} (hd : 7 < d.toNat) : exec (.read d) s = .next (raiseIllegal s) := by
  rcases exec_read_cases d s with ⟨v, hle, -, -⟩ | ⟨-, -, e⟩
  · omega
  · exact e

theorem exec_read_again {d : Byte} {s t : State} (h : exec (.read d) s = .next t) : exec (.read d) t = .next t := by
  rcases exec_read_next h with ⟨v, rfl⟩ | ⟨hd, rfl⟩
  · rwa [exec_read_respond]
  · exact exec_read_of_gt hd

theorem exec_rxRead_again {a : Index} {s t : State} (h : exec (.rxRead a) s = .next t) :
    exec (.rxRead a) t = .next t := by
  obtain ⟨v, rfl⟩ := exec_rxRead_next h
  rwa [exec_rxRead_respond]

theorem exec_txReset_busy {s : State} (h : arqBusy s = true) : exec .txReset s = .next (raiseIllegal s) := by
  rw [exec_txReset, if_pos h]

theorem exec_txReset_not_busy {s : State} (h : arqBusy s = false) :
    exec .txReset s = .next ((s.setTx (txSessionReset s.tx)).respond (txstat (txSessionReset s.tx))) := by
  rw [exec_txReset, if_neg (ne_true_of_eq_false h)]

theorem exec_txLoad_illegal {a : Index} {d : Byte} {s : State} (h : loadIllegal a s = true) :
    exec (.txLoad a d) s = .next (raiseIllegal s) := by
  rw [exec_txLoad, if_pos h]

theorem exec_txLoad_legal {a : Index} {d : Byte} {s : State} (h : loadIllegal a s = false) :
    exec (.txLoad a d) s =
      .next ((s.setTx { s.tx with buf := Memory.store s.tx.buf a.toNat d }).respond (txstat s.tx)) := by
  rw [exec_txLoad, if_neg (ne_true_of_eq_false h)]

theorem exec_txReset_again {s t : State} (h : exec .txReset s = .next t) : exec .txReset t = .next t := by
  cases hbusy : arqBusy s with
  | true =>
    rw [exec_txReset_busy hbusy] at h
    cases h
    exact exec_txReset_busy hbusy
  | false =>
    rw [exec_txReset_not_busy hbusy] at h
    cases h
    exact exec_txReset_not_busy hbusy

/-- The first TX_LOAD changes nothing that makes the second illegal, and the second stores the same byte again. -/
theorem exec_txLoad_again {a : Index} {d : Byte} {s t : State} (h : exec (.txLoad a d) s = .next t) :
    exec (.txLoad a d) t = .next t := by
  cases hill : loadIllegal a s with
  | true =>
    rw [exec_txLoad_illegal hill] at h
    cases h
    exact exec_txLoad_illegal hill
  | false =>
    rw [exec_txLoad_legal hill] at h
    cases h
    refine (exec_txLoad_legal (by exact hill)).trans ?_
    simp only [State.respond_tx, State.setTx_tx, Memory.store_store]
    rfl

/-- The first ARQ_ABORT leaves the controller idle, so the second resets no session. -/
theorem exec_arqAbort_again {s t : State} (h : exec .arqAbort s = .next t) : exec .arqAbort t = .next t := by
  cases h
  rfl

/-- Settles O56, command by command. -/
theorem repeatableCommandsAreIdempotent : Obligations.RepeatableCommandsAreIdempotent := by
  intro i s t hi h
  rcases hi with rfl | ⟨d, rfl⟩ | ⟨a, rfl⟩ | rfl | rfl | rfl | rfl | ⟨d, rfl⟩ | ⟨a, d, rfl⟩
  · cases h; rfl
  · exact exec_read_again h
  · exact exec_rxRead_again h
  · cases h; rfl
  · exact exec_txReset_again h
  · cases h; rfl
  · exact exec_arqAbort_again h
  · cases h; rfl
  · exact exec_txLoad_again h

/-! ### Where a command stops -/

/-- A command stops only at an index that the buffer it reads does not have (log 7). -/
theorem exec_eq_fault {i : Instr} {s : State} {f : Fault} (h : exec i s = .fault f) :
    (i = .txNext ∧ txNext s.cfg s.tx = .error f) ∨
    (∃ a, i = .rxRead a ∧ s.rx.state = .done ∧ a.toNat < s.rx.len.toNat ∧ s.cfg.maxPayload.toNat ≤ a.toNat) := by
  cases i
  case txNext =>
    rcases exec_txNext_cases s with ⟨-, e⟩ | ⟨-, tx, em, -, e⟩ | ⟨-, hx, e⟩ <;> rw [e] at h <;> cases h
    exact .inl ⟨rfl, hx⟩
  case rxRead a =>
    rcases exec_rxRead_cases a s with ⟨-, -, -, e⟩ | ⟨hs, hlen, hcap, e⟩ | ⟨-, e⟩ <;> rw [e] at h <;> cases h
    exact .inr ⟨a, rfl, hs, hlen, hcap⟩
  case read d => rcases exec_read_cases d s with ⟨v, -, -, e⟩ | ⟨-, -, e⟩ <;> rw [e] at h <;> cases h
  case txLoad a d => rw [exec_txLoad] at h; cases h
  case txBegin a => rw [exec_txBegin] at h; cases h
  case txReset => rw [exec_txReset] at h; cases h
  case arqSend a => rw [exec_arqSend] at h; cases h
  all_goals cases h

/-- Settles O60: each of the three reads finds its index at or above the capacity. -/
theorem internalReadOutsideABufferFaults : Obligations.InternalReadOutsideABufferFaults := by
  unfold Obligations.InternalReadOutsideABufferFaults
  refine ⟨fun s hbusy hs hcap => ?_, fun s harq hs hcap => ?_, fun a s hs hlen hcap => ?_⟩
  · exact exec_txNext_error hbusy (txNext_eq_error.mpr ⟨rfl, hs, hcap⟩)
  · exact arqTick_eq_fault.mpr ⟨harq, rfl, txNext_eq_error.mpr ⟨rfl, hs, hcap⟩⟩
  · rcases exec_rxRead_cases a s with ⟨-, -, hin, -⟩ | ⟨-, -, -, e⟩ | ⟨hnot, -⟩
    · omega
    · exact e
    · exact absurd ⟨hs, hlen⟩ hnot

end Sys2Proof.Machine

namespace Sys2Proof.Safety

open Sys2Proof.Machine

/-! ### No stop from a state with the invariant -/

/-- The cursor of a frame in its data is below a length within the capacity (10_state.md R43). -/
theorem TxInv.txNext_ne_error {c : Config} {tx : TxUnit} (h : TxInv c tx) (f : Fault) : txNext c tx ≠ .error f := by
  intro hx
  obtain ⟨-, hs, hcap⟩ := txNext_eq_error.mp hx
  have hcursor := h.data hs
  have hlen := (h.frame (by rw [hs]; rfl)).1
  omega

theorem Inv.exec_next {s : State} (h : Inv s) (i : Instr) : ∃ t, Machine.exec i s = .next t := by
  cases hx : Machine.exec i s with
  | next t => exact ⟨t, rfl⟩
  | refused r => exact absurd hx (exec_ne_refused i s r)
  | fault f =>
    rcases exec_eq_fault hx with ⟨-, herr⟩ | ⟨a, -, hs, hread, hcap⟩
    · exact absurd herr (h.tx.txNext_ne_error f)
    · have hlen := (h.rx.body (.inr (.inr hs))).2.1
      omega

theorem Inv.arqTick_next {s : State} (h : Inv s) (ready : Bool) : ∃ t, Machine.arqTick ready s = .next t := by
  cases hx : Machine.arqTick ready s with
  | next t => exact ⟨t, rfl⟩
  | refused r => exact absurd hx arqTick_ne_refused
  | fault f => exact absurd (arqTick_eq_fault.mp hx).2.2 (h.tx.txNext_ne_error f)

/-- Settles O59: the command answers a next state with the invariant, and so the tick after it runs too. -/
theorem invariantStatesNeverStop : Obligations.InvariantStatesNeverStop := by
  intro s h
  unfold Runs
  cases hr : s.port.rst with
  | true => exact ⟨_, step_of_reset h.cfg hr⟩
  | false =>
    cases hv : s.port.cmdValid with
    | false => rw [step_of_idle h.cfg hr hv]; exact h.startCycle.arqTick_next _
    | true =>
      cases hd : decode s.port.cmd with
      | illegal e => rw [step_of_illegal h.cfg hr hv hd]; exact h.startCycle.raiseIllegal.arqTick_next _
      | command i =>
        obtain ⟨u, hu⟩ := h.startCycle.exec_next i
        rw [step_of_command h.cfg hr hv hd, hu]
        exact (h.startCycle.exec hu).arqTick_next _

end Sys2Proof.Safety

namespace Sys2Proof.Machine

/-! ### Two runs side by side -/

theorem finishCycle_eq_next {ready : Bool} {o : Host.Outcome State Fault Refusal} {t : State}
    (h : finishCycle ready o = .next t) : ∃ u, o = .next u ∧ arqTick ready u = .next t := by
  cases o with
  | next u => exact ⟨u, rfl, h⟩
  | fault f => cases h
  | refused r => cases h

/-- A relation between the states of two runs that every part of a cycle keeps. -/
structure KeptByCycle (R : State → State → Prop) : Prop where
  reset : ∀ {s s'}, R s s' → R (resetState s) (resetState s')
  illegal : ∀ {s s'}, R s s' → R (raiseIllegal s) (raiseIllegal s')
  command : ∀ {i s s' t t'}, R s s' → exec i s = .next t → exec i s' = .next t' → R t t'
  tick : ∀ {ready s s' t t'}, R s s' → arqTick ready s = .next t → arqTick ready s' = .next t' → R t t'

/-- The same configuration and inputs present the same to both runs, so they take a cycle part by part together. -/
theorem KeptByCycle.step {R : State → State → Prop} (hR : KeptByCycle R) {s s' t t' : State} (hcfg : s.cfg = s'.cfg)
    (hinputs : s.inputs = s'.inputs) (h : R s.startCycle s'.startCycle) (ht : step s = .next t)
    (ht' : step s' = .next t') : R t t' := by
  have hport : s.port = s'.port := by unfold State.port; rw [hinputs]
  have hpresented : s.presented = s'.presented := by unfold State.presented; rw [hcfg, hport]
  unfold Machine.step at ht ht'
  rw [← hpresented, ← hport] at ht'
  cases hp : s.presented with
  | badConfig => rw [hp] at ht; cases ht
  | reset =>
    rw [hp] at ht ht'
    cases ht; cases ht'
    exact hR.reset h
  | idle =>
    rw [hp] at ht ht'
    exact hR.tick h ht ht'
  | illegal =>
    rw [hp] at ht ht'
    exact hR.tick (hR.illegal h) ht ht'
  | command i =>
    rw [hp] at ht ht'
    obtain ⟨u, hu, htick⟩ := finishCycle_eq_next ht
    obtain ⟨u', hu', htick'⟩ := finishCycle_eq_next ht'
    exact hR.tick (hR.command h hu hu') htick htick'

/-! ### The receiver and the accumulator of two runs -/

/-- Two states that agree on the receiver. -/
def SameReceiver (s s' : State) : Prop := s.cfg = s'.cfg ∧ s.rx = s'.rx

theorem sameReceiver_keptByCycle : KeptByCycle SameReceiver where
  reset h := ⟨h.1, congrArg rxSessionReset h.2⟩
  illegal h := h
  command := by
    rintro i s s' t t' ⟨hcfg, hrx⟩ ht ht'
    refine ⟨by rw [exec_cfg ht, exec_cfg ht', hcfg], ?_⟩
    rw [(exec_ownedFields ht).rx, (exec_ownedFields ht').rx, hcfg, hrx]
  tick := by
    rintro ready s s' t t' ⟨hcfg, hrx⟩ ht ht'
    exact ⟨by rw [arqTick_cfg ht, arqTick_cfg ht', hcfg], by rw [arqTick_rx ht, arqTick_rx ht', hrx]⟩

/-- Two states that agree on the accumulator. -/
def SameChecksum (s s' : State) : Prop := s.chkAcc = s'.chkAcc

theorem sameChecksum_keptByCycle : KeptByCycle SameChecksum where
  reset _ := rfl
  illegal h := h
  command := by
    intro i s s' t t' h ht ht'
    unfold SameChecksum at h ⊢
    rw [(exec_ownedFields ht).chkAcc, (exec_ownedFields ht').chkAcc, h]
  tick := by
    intro ready s s' t t' h ht ht'
    unfold SameChecksum at h ⊢
    rw [arqTick_chkAcc ht, arqTick_chkAcc ht', h]

/-! ### The transmitter and the controller of two runs -/

/-- What a cycle's outputs put on txo. -/
def Outputs.txo (o : Outputs) : Bool × Byte × Bool := (o.txoValid, o.txoData, o.txoFinal)

theorem Outputs.txo_emit {o o' : Outputs} (h : o.txo = o'.txo) (e : Option Emission) :
    (o.emit e).txo = (o'.emit e).txo := by
  cases e with
  | none => exact h
  | some e => rfl

/-- Two states that agree on the sending direction: the transmitter, its controller, and what is on txo so far. -/
structure SameSender (s s' : State) : Prop where
  cfg : s.cfg = s'.cfg
  tx : s.tx = s'.tx
  arq : s.arq = s'.arq
  txo : s.out.txo = s'.out.txo

namespace SameSender

variable {s s' t t' : State}

theorem busy (h : SameSender s s') : arqBusy s = arqBusy s' := by rw [arqBusy, arqBusy, h.arq]

theorem txNext (h : SameSender s s') : txNext s.cfg s.tx = txNext s'.cfg s'.tx := by rw [h.cfg, h.tx]

theorem loadIllegal (h : SameSender s s') (a : Index) : loadIllegal a s = loadIllegal a s' := by
  rw [Machine.loadIllegal, Machine.loadIllegal, h.busy, h.tx, h.cfg]

theorem setTx (h : SameSender s s') (tx : TxUnit) : SameSender (s.setTx tx) (s'.setTx tx) := ⟨h.cfg, rfl, h.arq, h.txo⟩

theorem setArq (h : SameSender s s') (arq : ArqUnit) : SameSender (s.setArq arq) (s'.setArq arq) :=
  ⟨h.cfg, h.tx, rfl, h.txo⟩

/-- A response leaves txo free, whatever it answers. -/
theorem respond (h : SameSender s s') (v v' : Word) : SameSender (s.respond v) (s'.respond v') :=
  ⟨h.cfg, h.tx, h.arq, rfl⟩

theorem raiseIllegal (h : SameSender s s') : SameSender (raiseIllegal s) (raiseIllegal s') := ⟨h.cfg, h.tx, h.arq, rfl⟩

theorem emit (h : SameSender s s') (e : Option Emission) : SameSender (s.emit e) (s'.emit e) :=
  ⟨h.cfg, h.tx, h.arq, Outputs.txo_emit h.txo e⟩

theorem emitAfterCommand (h : SameSender s s') (e : Option Emission) :
    SameSender (s.emitAfterCommand e) (s'.emitAfterCommand e) := by
  have hvalid : s.out.txoValid = s'.out.txoValid := congrArg Prod.fst h.txo
  unfold State.emitAfterCommand
  rw [hvalid]
  split
  · exact h
  · exact h.emit e

theorem nakEvent (h : SameSender s s') : SameSender (nakEvent s) (nakEvent s') := by
  unfold Machine.nakEvent
  rw [h.arq, h.cfg, h.tx]
  split
  · exact (h.setTx _).setArq _
  · exact h.setArq _

theorem acknowledge (h : SameSender s s') (d : Byte) : SameSender (acknowledge d s) (acknowledge d s') := by
  unfold Machine.acknowledge
  rw [h.arq, h.cfg]
  split
  · split
    · exact h.setArq _
    · split
      · exact h.nakEvent
      · exact h
  · exact h

theorem tickWaitAck (h : SameSender s s') : SameSender (tickWaitAck s) (tickWaitAck s') := by
  unfold Machine.tickWaitAck
  rw [h.arq, h.cfg]
  split
  · exact h
  · split
    · exact (h.setArq _).nakEvent
    · exact h.setArq _

theorem tickSending {ready : Bool} (h : SameSender s s') (ht : tickSending ready s = .next t)
    (ht' : tickSending ready s' = .next t') : SameSender t t' := by
  unfold Machine.tickSending at ht ht'
  cases ready with
  | false => cases ht; cases ht'; exact h
  | true =>
    simp only [if_true, ← h.txNext, ← h.arq] at ht ht'
    cases hx : Machine.txNext s.cfg s.tx with
    | error f => rw [hx] at ht; cases ht
    | ok r =>
      rw [hx] at ht ht'
      cases ht; cases ht'
      exact ((h.setTx _).setArq _).emitAfterCommand _

theorem arqTick {ready : Bool} (h : SameSender s s') (ht : arqTick ready s = .next t)
    (ht' : arqTick ready s' = .next t') : SameSender t t' := by
  unfold Machine.arqTick at ht ht'
  rw [← h.arq] at ht'
  cases hs : s.arq.state <;> rw [hs] at ht ht'
  case sending => exact h.tickSending ht ht'
  case waitAck => cases ht; cases ht'; exact h.tickWaitAck
  all_goals cases ht; cases ht'; exact h

theorem execTxNext (h : SameSender s s') (ht : exec .txNext s = .next t) (ht' : exec .txNext s' = .next t') :
    SameSender t t' := by
  rcases exec_txNext_cases s with ⟨hbusy, e⟩ | ⟨hbusy, tx, em, hx, e⟩ | ⟨-, -, e⟩ <;> rw [e] at ht <;> cases ht
  · rw [exec_txNext_busy (h.busy ▸ hbusy)] at ht'
    cases ht'
    exact h.raiseIllegal
  · rw [exec_txNext_ok (h.busy ▸ hbusy) (h.txNext ▸ hx)] at ht'
    cases ht'
    exact ((h.setTx tx).respond _ _).emit em

/-- The TX and ARQ commands find the same unit and take the same branch; every other command leaves it, and txo. -/
theorem exec {i : Instr} (h : SameSender s s') (ht : exec i s = .next t) (ht' : exec i s' = .next t') :
    SameSender t t' := by
  cases i
  case txNext => exact h.execTxNext ht ht'
  case txLoad a d =>
    rw [exec_txLoad] at ht ht'
    cases ht; cases ht'
    rw [h.loadIllegal a, h.tx]
    split
    · exact h.raiseIllegal
    · exact (h.setTx _).respond _ _
  case txBegin a =>
    rw [exec_txBegin] at ht ht'
    cases ht; cases ht'
    rw [h.busy, h.cfg, h.tx]
    split
    · exact h.raiseIllegal
    · exact (h.setTx _).respond _ _
  case txReset =>
    rw [exec_txReset] at ht ht'
    cases ht; cases ht'
    rw [h.busy, h.tx]
    split
    · exact h.raiseIllegal
    · exact (h.setTx _).respond _ _
  case arqSend a =>
    rw [exec_arqSend] at ht ht'
    cases ht; cases ht'
    rw [h.busy, h.cfg, h.tx]
    split
    · exact h.raiseIllegal
    · exact ((h.setTx _).setArq _).respond _ _
  case ack d => cases ht; cases ht'; exact (h.acknowledge d).respond _ _
  case arqAbort =>
    cases ht; cases ht'
    rw [h.busy, h.tx]
    exact ((h.setTx _).setArq _).respond _ _
  case rxRead a =>
    obtain ⟨v, rfl⟩ := exec_rxRead_next ht
    obtain ⟨v', rfl⟩ := exec_rxRead_next ht'
    exact h.respond v v'
  case read d =>
    rcases exec_read_next ht with ⟨v, rfl⟩ | ⟨-, rfl⟩ <;> rcases exec_read_next ht' with ⟨v', rfl⟩ | ⟨-, rfl⟩ <;>
      exact ⟨h.cfg, h.tx, h.arq, rfl⟩
  case reserved x => cases ht; cases ht'; exact h.raiseIllegal
  all_goals cases ht; cases ht'; exact ⟨h.cfg, h.tx, h.arq, rfl⟩

theorem keptByCycle : KeptByCycle SameSender where
  reset h := ⟨h.cfg, congrArg txSessionReset h.tx, rfl, rfl⟩
  illegal h := h.raiseIllegal
  command h := h.exec
  tick h := h.arqTick

end SameSender

/-- Settles O55: agreement on the receiver, on the sending direction and on the accumulator are each kept by a cycle. -/
theorem directionsDoNotInterfere : Obligations.DirectionsDoNotInterfere := by
  intro s s' t t' ht ht' hcfg hinputs
  refine ⟨fun hrx => ?_, fun htx harq => ?_, fun hchk => ?_⟩
  · have hsame : SameReceiver t t' := sameReceiver_keptByCycle.step hcfg hinputs ⟨hcfg, hrx⟩ ht ht'
    exact hsame.2
  · have hsame : SameSender t t' := SameSender.keptByCycle.step hcfg hinputs ⟨hcfg, htx, harq, rfl⟩ ht ht'
    have htxo := hsame.txo
    simp only [Outputs.txo, Prod.mk.injEq] at htxo
    exact ⟨hsame.tx, hsame.arq, htxo⟩
  · exact sameChecksum_keptByCycle.step (R := SameChecksum) hcfg hinputs hchk ht ht'

end Sys2Proof.Machine

/-! PROOFS. The encoding (30_encoding.md): which words decode to which command, that the encoder and the decoder are
each other's inverses, the match and mask of each row of the opcode map, and the response word of TX_NEXT. -/

namespace Sys2Proof

/-! ### What the decoder answers -/

/-- The checks of 30_encoding.md R76 on a word outside OP = 0xF. -/
structure LegalWord (w : Word) : Prop where
  rsv : fieldRsv w = 0
  a : usesA (fieldOp w) = true ∨ fieldA w = 0
  d : usesD (fieldOp w) = true ∨ fieldD w = 0
  index : fieldOp w = 0xD → (fieldD w).toNat ≤ 7

theorem decode_of_reserved {w : Word} (h : fieldOp w = 0xF) : decode w = .command (.reserved (fieldX w)) := by
  simp [decode, h]

theorem decode_of_legal {w : Word} (hop : fieldOp w ≠ 0xF) (h : LegalWord w) :
    decode w = .command (selectCommand (fieldOp w) (fieldA w) (fieldD w) (fieldX w)) := by
  obtain ⟨hrsv, ha, hd, hindex⟩ := h
  unfold decode
  rw [if_neg hop, if_neg (not_not.mpr hrsv), if_neg (by simpa [imp_iff_not_or] using ha),
    if_neg (by simpa [imp_iff_not_or] using hd), if_neg (by simpa using hindex)]

theorem decode_of_not_legal {w : Word} (hop : fieldOp w ≠ 0xF) (h : ¬ LegalWord w) : ∃ e, decode w = .illegal e := by
  unfold decode
  rw [if_neg hop]
  split
  · exact ⟨_, rfl⟩
  split
  · exact ⟨_, rfl⟩
  split
  · exact ⟨_, rfl⟩
  split
  · exact ⟨_, rfl⟩
  · rename_i hrsv ha hd hindex
    refine absurd ⟨?_, ?_, ?_, ?_⟩ h
    · simpa using hrsv
    · simpa [imp_iff_not_or] using ha
    · simpa [imp_iff_not_or] using hd
    · simpa using hindex

theorem decode_eq_illegal_iff (w : Word) :
    (∃ e, decode w = .illegal e) ↔ fieldOp w ≠ 0xF ∧ ¬ LegalWord w := by
  refine ⟨fun ⟨e, he⟩ => ⟨fun hop => ?_, fun hlegal => ?_⟩, fun ⟨hop, h⟩ => decode_of_not_legal hop h⟩
  · simp [decode_of_reserved hop] at he
  · by_cases hop : fieldOp w = 0xF
    · simp [decode_of_reserved hop] at he
    · simp [decode_of_legal hop hlegal] at he

theorem usesA_iff (op : BitVec 4) : usesA op = true ↔ op ∈ [0x5, 0x6, 0x7, 0xA] := by
  simp [usesA, or_assoc]

theorem usesD_iff (op : BitVec 4) : usesD op = true ↔ op ∈ [0x1, 0x2, 0x3, 0x6, 0xB, 0xD] := by
  simp [usesD, or_assoc]

theorem legalWord_iff (w : Word) :
    LegalWord w ↔ fieldRsv w = 0 ∧ (usesA (fieldOp w) = true ∨ fieldA w = 0) ∧
      (usesD (fieldOp w) = true ∨ fieldD w = 0) ∧ (fieldOp w = 0xD → (fieldD w).toNat ≤ 7) :=
  ⟨fun ⟨hrsv, ha, hd, hindex⟩ => ⟨hrsv, ha, hd, hindex⟩, fun ⟨hrsv, ha, hd, hindex⟩ => ⟨hrsv, ha, hd, hindex⟩⟩

theorem not_legalWord_iff (w : Word) :
    ¬ LegalWord w ↔ fieldRsv w ≠ 0 ∨ (fieldOp w ∉ [0x5, 0x6, 0x7, 0xA] ∧ fieldA w ≠ 0) ∨
      (fieldOp w ∉ [0x1, 0x2, 0x3, 0x6, 0xB, 0xD] ∧ fieldD w ≠ 0) ∨ (fieldOp w = 0xD ∧ 7 < (fieldD w).toNat) := by
  rw [legalWord_iff, usesA_iff, usesD_iff]
  simp only [not_and_or, not_or, Classical.not_imp, not_le, ne_eq]

/-- Settles O4: outside OP = 0xF a word is Illegal exactly when one of the decoder's checks fails. -/
theorem decodeAnswersIllegalExactlyWhen : Obligations.DecodeAnswersIllegalExactlyWhen := by
  intro w
  rw [decode_eq_illegal_iff, not_legalWord_iff]
  rfl

/-! ### Encoding, then decoding -/

/-- The fields of a packed word that the row of `op` admits decode to that row with its operands. -/
theorem decode_packWord {op : BitVec 4} {a : Index} {d : Byte} (hop : op ≠ 0xF) (ha : usesA op = true ∨ a = 0)
    (hd : usesD op = true ∨ d = 0) (hindex : op = 0xD → d.toNat ≤ 7) :
    decode (packWord op a d) = .command (selectCommand op a d (fieldX (packWord op a d))) := by
  have hlegal : LegalWord (packWord op a d) := ⟨by simp, by simpa using ha, by simpa using hd, by simpa using hindex⟩
  simpa using decode_of_legal (by simpa using hop) hlegal

theorem fieldOp_encode_reserved (x : BitVec 28) : fieldOp (encode (.reserved x)) = 0xF := by
  apply BitVec.eq_of_getLsbD_eq
  intro i hi
  interval_cases i <;> simp [fieldOp, encode_reserved_getElem]

theorem fieldX_encode_reserved (x : BitVec 28) : fieldX (encode (.reserved x)) = x := by
  apply BitVec.eq_of_getLsbD_eq
  intro i hi
  simp [fieldX, hi, encode_reserved_getLsbD]

/-- Settles O1: the reserved row keeps its 28 bits; every other command is a packed word that passes the checks, READ by
its well-formedness. -/
theorem encodedCommandDecodesToItself : Obligations.EncodedCommandDecodesToItself := by
  intro i hwf
  cases i
  case reserved x => rw [decode_of_reserved (fieldOp_encode_reserved x), fieldX_encode_reserved]
  case read d => exact decode_packWord (by decide) (.inr rfl) (.inl rfl) fun _ => of_decide_eq_true hwf
  all_goals exact decode_packWord (by decide) (by simp [usesA]) (by simp [usesD]) (by simp)

/-! ### Decoding, then encoding -/

/-- The row that OP selects encodes to the word it was cut from, where the fields the row does not use are 0. -/
theorem encode_selectCommand {op : BitVec 4} {a : Index} {d : Byte} (x : BitVec 28) (hop : op ≠ 0xF)
    (ha : usesA op = true ∨ a = 0) (hd : usesD op = true ∨ d = 0) :
    encode (selectCommand op a d x) = packWord op a d := by
  obtain ⟨k⟩ := op
  fin_cases k <;> simp_all [usesA, usesD, selectCommand, encode]

/-- READ is the one row with a bound on its operand. -/
theorem wf_selectCommand {op : BitVec 4} (a : Index) {d : Byte} (x : BitVec 28) (hindex : op = 0xD → d.toNat ≤ 7) :
    (selectCommand op a d x).wf = true := by
  unfold selectCommand
  split
  case h_14 hread => exact decide_eq_true (hindex (BitVec.eq_of_toNat_eq hread))
  all_goals rfl

/-- A word with OP = 0xF is the encoding of the reserved row with the 28 bits below. -/
theorem encode_reserved_fieldX {w : Word} (hop : fieldOp w = 0xF) : encode (.reserved (fieldX w)) = w := by
  apply BitVec.eq_of_getLsbD_eq
  intro i hi
  rw [encode_reserved_getLsbD, ← hop]
  split
  · simp [fieldX, *]
  · have h4 : 28 + (i - 28) = i := by omega
    have h5 : i - 28 < 4 := by omega
    simp [fieldOp, h4, h5]

/-- Settles O2: a decoded word is a reserved one or passes the checks, and then it is its own fields packed. -/
theorem decodedWordEncodesBack : Obligations.DecodedWordEncodesBack := by
  intro w i h
  by_cases hop : fieldOp w = 0xF
  · rw [decode_of_reserved hop] at h
    cases h
    exact ⟨rfl, encode_reserved_fieldX hop⟩
  by_cases hlegal : LegalWord w
  · rw [decode_of_legal hop hlegal] at h
    cases h
    refine ⟨wf_selectCommand _ _ hlegal.index, ?_⟩
    rw [encode_selectCommand _ hop hlegal.a hlegal.d, packWord_fields w hlegal.rsv]
  · obtain ⟨e, he⟩ := decode_of_not_legal hop hlegal
    cases h.symm.trans he

theorem decode_eq_command_iff (w : Word) (i : Instr) : decode w = .command i ↔ i.wf = true ∧ encode i = w :=
  ⟨decodedWordEncodesBack w i, fun ⟨hwf, he⟩ => he ▸ encodedCommandDecodesToItself i hwf⟩

/-! ### The match and mask of a row -/

theorem fieldOp_and (v w : Word) : fieldOp (v &&& w) = fieldOp v &&& fieldOp w := BitVec.extractLsb'_and
theorem fieldRsv_and (v w : Word) : fieldRsv (v &&& w) = fieldRsv v &&& fieldRsv w := BitVec.extractLsb'_and
theorem fieldA_and (v w : Word) : fieldA (v &&& w) = fieldA v &&& fieldA w := BitVec.extractLsb'_and
theorem fieldD_and (v w : Word) : fieldD (v &&& w) = fieldD v &&& fieldD w := BitVec.extractLsb'_and

theorem eq_packWord_iff (w : Word) (op : BitVec 4) (a : Index) (d : Byte) :
    w = packWord op a d ↔ fieldOp w = op ∧ fieldRsv w = 0 ∧ fieldA w = a ∧ fieldD w = d := by
  refine ⟨fun h => by simp [h], ?_⟩
  rintro ⟨rfl, hrsv, rfl, rfl⟩
  exact (packWord_fields w hrsv).symm

/-- A mask that covers OP and RSV, against a match with nothing but OP: what it leaves of A and D is 0. -/
theorem and_mask_eq_packWord_iff {m : Word} (w : Word) (op : BitVec 4) (hop : fieldOp m = 0xF)
    (hrsv : fieldRsv m = 0x7FF) :
    w &&& m = packWord op 0 0 ↔
      fieldOp w = op ∧ fieldRsv w = 0 ∧ fieldA w &&& fieldA m = 0 ∧ fieldD w &&& fieldD m = 0 := by
  have hopAnd : fieldOp w &&& 0xF = fieldOp w := BitVec.and_allOnes
  have hrsvAnd : fieldRsv w &&& 0x7FF = fieldRsv w := BitVec.and_allOnes
  rw [eq_packWord_iff, fieldOp_and, fieldRsv_and, fieldA_and, fieldD_and, hop, hrsv, hopAnd, hrsvAnd]

/-- The rows with no operand. -/
theorem and_maskNone_iff (op : BitVec 4) (w : Word) :
    w &&& 0xFFFFFFFF = packWord op 0 0 ↔ packWord op 0 0 = w := by
  rw [show w &&& 0xFFFFFFFF = w from BitVec.and_allOnes, eq_comm]

/-- The rows with operand D. -/
theorem and_maskD_iff (op : BitVec 4) (w : Word) :
    w &&& 0xFFFFFF00 = packWord op 0 0 ↔ packWord op 0 (fieldD w) = w := by
  have ha : fieldA w &&& 0x1FF = fieldA w := BitVec.and_allOnes
  rw [and_mask_eq_packWord_iff w op (by decide) (by decide), eq_comm (b := w), eq_packWord_iff,
    show fieldA 0xFFFFFF00 = 0x1FF by decide, show fieldD 0xFFFFFF00 = 0 by decide, ha]
  simp

/-- The rows with operand A. -/
theorem and_maskA_iff (op : BitVec 4) (w : Word) :
    w &&& 0xFFFE00FF = packWord op 0 0 ↔ packWord op (fieldA w) 0 = w := by
  have hd : fieldD w &&& 0xFF = fieldD w := BitVec.and_allOnes
  rw [and_mask_eq_packWord_iff w op (by decide) (by decide), eq_comm (b := w), eq_packWord_iff,
    show fieldA 0xFFFE00FF = 0 by decide, show fieldD 0xFFFE00FF = 0xFF by decide, hd]
  simp

/-- The row with both operands. -/
theorem and_maskAD_iff (op : BitVec 4) (w : Word) :
    w &&& 0xFFFE0000 = packWord op 0 0 ↔ packWord op (fieldA w) (fieldD w) = w := by
  rw [and_mask_eq_packWord_iff w op (by decide) (by decide), eq_comm (b := w), eq_packWord_iff,
    show fieldA 0xFFFE0000 = 0 by decide, show fieldD 0xFFFE0000 = 0 by decide]
  simp

/-- The reserved row: the mask covers OP alone. -/
theorem and_maskX_iff (w : Word) : w &&& 0xF0000000 = 0xF0000000 ↔ encode (.reserved (fieldX w)) = w := by
  refine ⟨fun h => encode_reserved_fieldX ?_, fun h => ?_⟩
  · calc fieldOp w = fieldOp w &&& fieldOp 0xF0000000 := BitVec.and_allOnes.symm
      _ = fieldOp 0xF0000000 := by rw [← fieldOp_and, h]
      _ = 0xF := by decide
  · have hrow := Laws.EncodingMatchesRow.reserved (fieldX w)
    unfold Laws.EncodingMatchesRow.Statement at hrow
    rwa [h] at hrow

/-- Where mask and match pick out the encodings of a command, they pick out the words that decode to it. -/
theorem selects_iff {w m v : Word} {i : Instr} (hwf : i.wf = true) (h : w &&& m = v ↔ encode i = w) :
    w &&& m = v ↔ decode w = .command i := by
  rw [decode_eq_command_iff, h, and_iff_right hwf]

/-- READ's row, with its bound on the index (30_encoding.md R76). -/
theorem selects_read_iff (w : Word) :
    w &&& 0xFFFFFF00 = 0xD0000000 ∧ (fieldD w).toNat ≤ 7 ↔ decode w = .command (.read (fieldD w)) := by
  rw [decode_eq_command_iff, and_comm]
  exact and_congr decide_eq_true_iff.symm (and_maskD_iff 0xD w)

/-- Settles O3: a mask selects the encodings of its row, and those are the words that decode to it. -/
theorem matchAndMaskSelectTheCommand : Obligations.MatchAndMaskSelectTheCommand := fun w =>
  ⟨selects_iff rfl (and_maskNone_iff 0x0 w), selects_iff rfl (and_maskD_iff 0x1 w),
    selects_iff rfl (and_maskD_iff 0x2 w), selects_iff rfl (and_maskD_iff 0x3 w),
    selects_iff rfl (and_maskNone_iff 0x4 w), selects_iff rfl (and_maskA_iff 0x5 w),
    selects_iff rfl (and_maskAD_iff 0x6 w), selects_iff rfl (and_maskA_iff 0x7 w),
    selects_iff rfl (and_maskNone_iff 0x8 w), selects_iff rfl (and_maskNone_iff 0x9 w),
    selects_iff rfl (and_maskA_iff 0xA w), selects_iff rfl (and_maskD_iff 0xB w),
    selects_iff rfl (and_maskNone_iff 0xC w), selects_read_iff w, selects_iff rfl (and_maskNone_iff 0xE w),
    selects_iff rfl (and_maskX_iff w)⟩

/-- Settles O5: closed facts about seven words, each by evaluation. -/
theorem specWordsDecodeToTheirCommands : Obligations.SpecWordsDecodeToTheirCommands := by
  unfold Obligations.SpecWordsDecodeToTheirCommands
  decide

end Sys2Proof

namespace Sys2Proof.Machine

/-! ### The response of TX_NEXT -/

theorem Outputs.emit_resp (o : Outputs) (e : Option Emission) : (o.emit e).resp = o.resp := by
  cases e <;> rfl

theorem Outputs.response_emit_txoValid (v : Word) (e : Option Emission) :
    ((Outputs.response v).emit e).txoValid = e.isSome := by
  cases e <;> rfl

theorem Outputs.response_emit_txoData (v : Word) (e : Option Emission) :
    ((Outputs.response v).emit e).txoData = e.elim 0 Emission.data := by
  cases e <;> rfl

theorem Outputs.response_emit_txoFinal (v : Word) (e : Option Emission) :
    ((Outputs.response v).emit e).txoFinal = e.elim false Emission.final := by
  cases e <;> rfl

theorem txnextWord_fields (tx : TxUnit) (e : Option Emission) :
    (txnextWord tx e).extractLsb' 0 8 = e.elim 0 Emission.data ∧ (txnextWord tx e).getLsbD 8 = e.isSome ∧
      (txnextWord tx e).getLsbD 9 = e.elim false Emission.final ∧
      (txnextWord tx e).extractLsb' 10 2 = tx.state.status ∧ (txnextWord tx e).extractLsb' 12 2 = tx.err.code ∧
      (txnextWord tx e).extractLsb' 14 18 = 0 := by
  refine ⟨?_, by rw [txnextWord_getLsbD]; simp, by rw [txnextWord_getLsbD]; simp, ?_, ?_, ?_⟩
  all_goals exact extractLsb'_eq_of_getLsbD fun i hi => by grind [txnextWord_getLsbD]

/-- FINAL belongs to the ETX byte alone (42_transmitter.md R157). -/
theorem txNext_final_iff {c : Config} {tx tx' : TxUnit} {e : Option Emission} (h : txNext c tx = .ok (tx', e)) :
    e.elim false Emission.final = true ↔ tx.state = .sendEtx := by
  rcases txNext_cases h with ⟨hs, -, rfl⟩ | ⟨hs, -, rfl⟩ | ⟨hs, -, -, rfl⟩ | ⟨hs, -, rfl⟩ | ⟨hs, -, rfl⟩ |
    ⟨hs | hs | hs, -, rfl⟩ <;> simp [hs]

/-- Settles O40: the fields of the response word are those of the emission that the outputs carry and of the
transmitter after the call. -/
theorem txNextResponseCarriesTheEmission : Obligations.TxNextResponseCarriesTheEmission := by
  intro s t hbusy ht
  rcases exec_txNext_cases s with ⟨hbusy', -⟩ | ⟨-, tx, e, hx, hexec⟩ | ⟨-, -, hexec⟩
  · simp [hbusy] at hbusy'
  · cases hexec.symm.trans ht
    obtain ⟨hbyte, hemitted, hfinal, hstatus, herr, hzero⟩ := txnextWord_fields tx e
    simp only [State.emit_out, State.emit_tx, State.respond_out, State.respond_tx, State.setTx_tx, Outputs.emit_resp,
      Outputs.response_resp, Outputs.response_emit_txoValid, Outputs.response_emit_txoData,
      Outputs.response_emit_txoFinal]
    refine ⟨hbyte, hemitted, hfinal, fun hnone => ?_, txNext_final_iff hx, ?_, ?_, hzero⟩
    · obtain rfl : e = none := by simpa using hnone
      exact hbyte
    · rw [hstatus]; cases tx.state <;> rfl
    · rw [herr]; cases tx.err <;> rfl
  · simp [hexec] at ht

/-! ### The reserved operation -/

/-- Settles O13: the reserved row is `raiseIllegal`, written out as a whole next state. -/
theorem reservedOperationIsIllegal : Obligations.ReservedOperationIsIllegal :=
  fun x s => exec_reserved x s

end Sys2Proof.Machine

/-! PROOFS. The checksum (40_checksum.md): the CHK commands, the laws of the fold, and the valid frames. -/

namespace Sys2Proof.Machine

/-! ### The CHK commands -/

/-- Settles O21: each command is one `setChkAcc` and one `respond`, written out as a whole next state. -/
theorem chkCommandsDriveTheAccumulator : Obligations.ChkCommandsDriveTheAccumulator :=
  fun d s => ⟨exec_chkSeed d s, exec_chkFold d s⟩

/-- The state a CHK command leaves: the new accumulator, answered (40_checksum.md R102, R103). -/
def State.answerChk (s : State) (v : Byte) : State := (s.setChkAcc v).respond (byteWord v)

theorem exec_chkSeed_answerChk (d : Byte) (s : State) : exec (.chkSeed d) s = .next (s.answerChk d) :=
  exec_chkSeed d s

/-- A CHK command overwrites all that the one before it wrote. -/
theorem exec_chkFold_answerChk (a d : Byte) (s : State) :
    exec (.chkFold d) (s.answerChk a) = .next (s.answerChk (a ^^^ d)) := rfl

theorem execAll_cons_of_next {i : Instr} {is : List Instr} {s t u : State} {os : List Outputs}
    (hexec : exec i s = .next t) (hrest : execAll is t = some (os, u)) :
    execAll (i :: is) s = some (t.out :: os, u) := by
  simp [execAll, hexec, hrest]

theorem execAll_chkFolds (bs : List Byte) (a : Byte) (s : State) :
    ∃ os, execAll (bs.map .chkFold) (s.answerChk a) = some (os, s.answerChk (fold a bs)) := by
  induction bs generalizing a with
  | nil => exact ⟨[], rfl⟩
  | cons b bs ih =>
    obtain ⟨os, hrest⟩ := ih (a ^^^ b)
    exact ⟨_, execAll_cons_of_next (exec_chkFold_answerChk a b s) hrest⟩

/-- Settles O22: the accumulator runs through the partial folds, one for each CHK_FOLD. -/
theorem checksumCommandsComputeTheFold : Obligations.ChecksumCommandsComputeTheFold := by
  intro seed bs s
  obtain ⟨os, hfolds⟩ := execAll_chkFolds bs seed s
  exact ⟨_, s.answerChk (fold seed bs), execAll_cons_of_next (exec_chkSeed_answerChk seed s) hfolds, rfl⟩

/-! ### The laws of the fold -/

theorem byte_xor_right_comm (a b d : Byte) : a ^^^ b ^^^ d = a ^^^ d ^^^ b := by ac_rfl

/-- What is xored into the seed comes out of the fold: all the laws below follow from this one and `fold_append`. -/
theorem fold_xor_seed (a d : Byte) (bs : List Byte) : fold (a ^^^ d) bs = fold a bs ^^^ d := by
  induction bs generalizing a with
  | nil => rfl
  | cons b bs ih => rw [fold_cons, fold_cons, byte_xor_right_comm, ih]

theorem fold_eq_xor_fold_zero (s : Byte) (p : List Byte) : fold s p = s ^^^ fold 0 p := by
  rw [BitVec.xor_comm, ← fold_xor_seed, zero_xor]

/-- A byte met anywhere in the sequence is one xor on the fold of the others. -/
theorem fold_append_singleton_append (s b : Byte) (p q : List Byte) :
    fold s (p ++ [b] ++ q) = fold s (p ++ q) ^^^ b := by
  simp only [fold_append, fold_cons, fold_nil, fold_xor_seed]

theorem fold_perm {p q : List Byte} (h : p.Perm q) (s : Byte) : fold s p = fold s q := by
  induction h generalizing s with
  | nil => rfl
  | cons b _ ih => exact ih (s ^^^ b)
  | swap b b' p => rw [fold_cons, fold_cons, fold_cons, fold_cons, byte_xor_right_comm]
  | trans _ _ ih ih' => exact (ih s).trans (ih' s)

theorem fold_cancel (s b : Byte) (p q r : List Byte) :
    fold s (p ++ [b] ++ q ++ [b] ++ r) = fold s (p ++ q ++ r) := by
  rw [fold_append_singleton_append, List.append_assoc _ q r, fold_append_singleton_append, xor_cancel_right,
    List.append_assoc]

theorem fold_change (s x y : Byte) (p q : List Byte) :
    fold s (p ++ [y] ++ q) = fold s (p ++ [x] ++ q) ^^^ (x ^^^ y) := by
  rw [fold_append_singleton_append, fold_append_singleton_append, ← BitVec.xor_assoc, xor_cancel_right]

theorem fold_change_ne {x y : Byte} (h : x ≠ y) (s : Byte) (p q : List Byte) :
    fold s (p ++ [y] ++ q) ≠ fold s (p ++ [x] ++ q) := by
  rw [fold_append_singleton_append, fold_append_singleton_append, Ne, BitVec.xor_right_inj]
  exact h.symm

theorem fold_flip (s x d : Byte) (p q : List Byte) :
    fold s (p ++ [x ^^^ d] ++ q) = fold s (p ++ [x] ++ q) ^^^ d := by
  rw [fold_append_singleton_append, fold_append_singleton_append, BitVec.xor_assoc]

theorem fold_change_seed (x y : Byte) (p : List Byte) : fold y p = fold x p ^^^ (x ^^^ y) := by
  rw [← fold_xor_seed, xor_cancel_left]

/-- Settles O23, law by law. -/
theorem foldLaws : Obligations.FoldLaws :=
  ⟨fold_append, fold_eq_xor_fold_zero, fun s _ _ h => fold_perm h s, fold_cancel, fun s p q x y =>
    ⟨fold_change s x y p q, fun h => fold_change_ne h s p q, fun k _ => fold_flip s x (1 <<< k) p q,
      fold_change_seed x y p⟩⟩

/-! ### The valid frames -/

theorem validFrame_eq_false_of_short {c : Config} {f : List Byte} (h : f.length < 2) : validFrame c f = false := by
  match f, h with
  | [], _ => rfl
  | [_], _ => rfl

/-- R107 on a sequence with its STX and LEN bytes split off. -/
theorem validFrame_cons_cons_iff (c : Config) (b len : Byte) (rest : List Byte) :
    validFrame c (b :: len :: rest) = true ↔
      b = c.stx ∧ len.toNat ≤ c.maxPayload.toNat ∧ rest.length = len.toNat + 2 ∧
        rest.drop len.toNat = [fold c.stx (len :: rest.take len.toNat), c.etx] := by
  simp only [validFrame, Bool.and_eq_true, decide_eq_true_eq, List.length_cons, Nat.add_right_cancel_iff,
    and_assoc]

theorem drop_eq_pair_iff {l : List Byte} {n : Nat} (h : l.length = n + 2) (x y : Byte) :
    l.drop n = [x, y] ↔ l[n]? = some x ∧ l[n + 1]? = some y := by
  rw [List.drop_eq_getElem_cons (by omega), List.drop_eq_getElem_cons (by omega),
    List.drop_eq_nil_of_le (by omega), List.getElem?_eq_getElem (by omega), List.getElem?_eq_getElem (by omega)]
  simp

/-- 40_checksum.md R107, place by place. -/
theorem validFrame_iff_places (c : Config) (f : List Byte) :
    validFrame c f = true ↔
      4 ≤ f.length ∧ f[0]? = some c.stx ∧
        ∃ len : Byte, f[1]? = some len ∧ len.toNat ≤ c.maxPayload.toNat ∧ f.length = len.toNat + 4 ∧
          f[len.toNat + 2]? = some (fold c.stx ((f.drop 1).take (len.toNat + 1))) ∧
          f[len.toNat + 3]? = some c.etx := by
  match f with
  | [] => simp [validFrame_eq_false_of_short]
  | [_] => simp [validFrame_eq_false_of_short]
  | b :: len :: rest =>
    rw [validFrame_cons_cons_iff]
    constructor
    · rintro ⟨rfl, hcap, hlen, hend⟩
      rw [drop_eq_pair_iff hlen] at hend
      exact ⟨by simp [hlen], rfl, len, rfl, hcap, by simp [hlen], hend⟩
    · rintro ⟨-, hstx, len', hlen', hcap, hlength, hend⟩
      obtain rfl : len = len' := Option.some.inj hlen'
      have hlen : rest.length = len.toNat + 2 := by simpa using hlength
      exact ⟨Option.some.inj hstx, hcap, hlen, (drop_eq_pair_iff hlen _ _).mpr hend⟩

/-- A payload within the capacity has a length that the LEN byte can hold. -/
theorem toNat_ofNat_length {c : Config} {p : List Byte} (h : p.length ≤ c.maxPayload.toNat) :
    (BitVec.ofNat 8 p.length).toNat = p.length :=
  Nat.mod_eq_of_lt (h.trans_lt c.maxPayload.isLt)

theorem validFrame_encodeFrame {c : Config} {p : List Byte} (h : p.length ≤ c.maxPayload.toNat) :
    validFrame c (encodeFrame c p) = true := by
  rw [encodeFrame_eq, validFrame_cons_cons_iff, toNat_ofNat_length h]
  exact ⟨rfl, h, by simp, by simp [frameChk]⟩

/-- The payload of a valid frame is what stands between the LEN byte and the CHK byte. -/
theorem eq_encodeFrame_of_validFrame {c : Config} {f : List Byte} (h : validFrame c f = true) :
    ∃ p, p.length ≤ c.maxPayload.toNat ∧ f = encodeFrame c p := by
  match f with
  | [] => simp [validFrame_eq_false_of_short] at h
  | [_] => simp [validFrame_eq_false_of_short] at h
  | b :: len :: rest =>
    obtain ⟨rfl, hcap, hlen, hend⟩ := (validFrame_cons_cons_iff c b len rest).mp h
    have hp : (rest.take len.toNat).length = len.toNat := by simp [hlen]
    refine ⟨rest.take len.toNat, hp.trans_le hcap, ?_⟩
    calc c.stx :: len :: rest = c.stx :: len :: (rest.take len.toNat ++ rest.drop len.toNat) := by
          rw [List.take_append_drop]
      _ = encodeFrame c (rest.take len.toNat) := by
          rw [hend, encodeFrame_eq, frameChk, hp, BitVec.ofNat_toNat, BitVec.setWidth_eq]

theorem encodeFrame_payload (c : Config) (p : List Byte) :
    ((encodeFrame c p).drop 2).take ((encodeFrame c p).length - 4) = p := by
  simp [encodeFrame_eq]

/-- Settles O24: the places of R107 are the fields of `encodeFrame`, and its payload can be read back. -/
theorem validFramesAreTheEncodedPayloads : Obligations.ValidFramesAreTheEncodedPayloads := by
  intro c f
  refine ⟨validFrame_iff_places c f, ⟨eq_encodeFrame_of_validFrame, ?_⟩, ?_⟩
  · rintro ⟨p, hcap, rfl⟩
    exact validFrame_encodeFrame hcap
  · rintro p - rfl
    exact (encodeFrame_payload c p).symm

end Sys2Proof.Machine

/-! PROOFS. The receiver (41_receiver.md): what one byte does in each state, RX_RESET and RX_READ, what a frame does
that is fed byte by byte, and the class of every byte sequence. -/

namespace Sys2Proof.Machine

/-! ### One byte, state by state -/

theorem rxFeed_stx {c : Config} {rx : RxUnit} (hs : rx.state = .waitStx) :
    rxFeed c c.stx rx = { rx with chk := c.stx, len := 0x00, count := 0x00, state := .waitLen } := by
  rw [rxFeed_of_waitStx hs, rxFeedWaitStx, if_pos rfl]

theorem rxFeed_noise {c : Config} {b : Byte} {rx : RxUnit} (hs : rx.state = .waitStx) (hb : b ≠ c.stx) :
    rxFeed c b rx = rx := by
  rw [rxFeed_of_waitStx hs, rxFeedWaitStx, if_neg hb]

theorem rxFeed_terminal {c : Config} {b : Byte} {rx : RxUnit} (hs : rx.state = .done ∨ rx.state = .error) :
    rxFeed c b rx = rxFeedTerminal c b rx := by
  rcases hs with hs | hs
  · exact rxFeed_of_done hs
  · exact rxFeed_of_error hs

theorem rxFeed_terminal_keep {c : Config} {b : Byte} {rx : RxUnit} (hc : c.rxAutoReset = false)
    (hs : rx.state = .done ∨ rx.state = .error) : rxFeed c b rx = rx := by
  simp [rxFeed_terminal hs, rxFeedTerminal, hc]

theorem rxFeed_terminal_autoReset {c : Config} {b : Byte} {rx : RxUnit} (hc : c.rxAutoReset = true)
    (hs : rx.state = .done ∨ rx.state = .error) : rxFeed c b rx = rxFeed c b (rxSessionReset rx) := by
  rw [rxFeed_terminal hs, rxFeedTerminal, if_pos hc, rxFeed_of_waitStx rfl]

theorem rxFeed_length {c : Config} {b : Byte} {rx : RxUnit} (hs : rx.state = .waitLen) :
    rxFeed c b rx = { rx with
      len := b
      chk := rx.chk ^^^ b
      state := if c.maxPayload.toNat < b.toNat then .error else if b = 0 then .checkChk else .readData
      err := if c.maxPayload.toNat < b.toNat then .overflow else rx.err } := by
  rw [rxFeed_of_waitLen hs, rxFeedWaitLen]
  by_cases hcap : c.maxPayload.toNat < b.toNat
  · simp only [if_pos hcap]
  · simp only [if_neg hcap]
    split <;> rfl

/-- The defensive bound of R125. -/
theorem rxFeed_data_overflow {c : Config} {b : Byte} {rx : RxUnit} (hs : rx.state = .readData)
    (hbound : rx.len.toNat ≤ rx.count.toNat ∨ c.maxPayload.toNat ≤ rx.count.toNat) :
    rxFeed c b rx = { rx with state := .error, err := .overflow } := by
  rw [rxFeed_of_readData hs, rxFeedReadData, if_pos hbound]

theorem rxFeed_data {c : Config} {b : Byte} {rx : RxUnit} (hs : rx.state = .readData)
    (hlen : rx.count.toNat < rx.len.toNat) (hcap : rx.count.toNat < c.maxPayload.toNat) :
    rxFeed c b rx = { rx with
      buf := Memory.store rx.buf rx.count.toNat b
      chk := rx.chk ^^^ b
      count := rx.count + 1
      state := if rx.count.toNat + 1 = rx.len.toNat then .checkChk else .readData } := by
  have hlast : rx.count + 1 = rx.len ↔ rx.count.toNat + 1 = rx.len.toNat := by bv_omega
  rw [rxFeed_of_readData hs, rxFeedReadData, if_neg (by omega)]
  simp only [hlast, hs]

theorem rxFeed_chk {c : Config} {rx : RxUnit} (hs : rx.state = .checkChk) :
    rxFeed c rx.chk rx = { rx with state := .waitEtx } := by
  rw [rxFeed_of_checkChk hs, rxFeedCheckChk, if_pos rfl]

theorem rxFeed_chk_mismatch {c : Config} {b : Byte} {rx : RxUnit} (hs : rx.state = .checkChk) (hb : b ≠ rx.chk) :
    rxFeed c b rx = { rx with state := .error, err := .checksumMismatch } := by
  rw [rxFeed_of_checkChk hs, rxFeedCheckChk, if_neg hb]

theorem rxFeed_etx {c : Config} {rx : RxUnit} (hs : rx.state = .waitEtx) :
    rxFeed c c.etx rx = { rx with state := .done } := by
  rw [rxFeed_of_waitEtx hs, rxFeedWaitEtx, if_pos rfl]

theorem rxFeed_etx_mismatch {c : Config} {b : Byte} {rx : RxUnit} (hs : rx.state = .waitEtx) (hb : b ≠ c.etx) :
    rxFeed c b rx = { rx with state := .error, err := .framingError } := by
  rw [rxFeed_of_waitEtx hs, rxFeedWaitEtx, if_neg hb]

/-! ### RX_FEED, RX_RESET and RX_READ as whole next states -/

theorem rxstat_status (rx : RxUnit) : (rxstat rx).extractLsb' 0 2 = rx.state.status := (rxstat_fields rx).1

/-- The state that RX_FEED leaves (41_receiver.md R120). -/
def State.afterFeed (s : State) (b : Byte) : State :=
  { s with rx := rxFeed s.cfg b s.rx, out := Outputs.response (rxstat (rxFeed s.cfg b s.rx)) }

theorem exec_rxFeed_afterFeed (b : Byte) (s : State) : exec (.rxFeed b) s = .next (s.afterFeed b) := rfl

@[simp] theorem State.afterFeed_cfg (s : State) (b : Byte) : (s.afterFeed b).cfg = s.cfg := rfl
@[simp] theorem State.afterFeed_rx (s : State) (b : Byte) : (s.afterFeed b).rx = rxFeed s.cfg b s.rx := rfl

theorem State.afterFeed_status (s : State) (b : Byte) :
    (s.afterFeed b).out.resp.extractLsb' 0 2 = (rxFeed s.cfg b s.rx).state.status :=
  rxstat_status _

/-- A byte in WaitStx never ends the session: the status stays Pending. -/
theorem rxFeed_waitStx_status {c : Config} {b : Byte} {rx : RxUnit} (hs : rx.state = .waitStx) :
    (rxFeed c b rx).state.status = 0 := by
  by_cases hb : b = c.stx
  · subst hb
    rw [rxFeed_stx hs]; rfl
  · rw [rxFeed_noise hs hb, hs]; rfl

/-- Settles O25: the two branches of R121 are those of `rxFeedWaitStx`. -/
theorem rxFeedInWaitStx : Obligations.RxFeedInWaitStx := by
  intro b s hs
  refine ⟨_, _, exec_rxFeed_afterFeed b s, rxFeed_of_waitStx hs, rfl, ?_⟩
  rw [rxstat_status, rxFeed_waitStx_status hs]

/-- Settles O26: under RX_AUTO_RESET = 1 the byte meets a session that was just reset, hence is in WaitStx. -/
theorem rxFeedInATerminalState : Obligations.RxFeedInATerminalState := by
  intro b s hs
  refine ⟨_, exec_rxFeed_afterFeed b s, fun hc => rxFeed_terminal_keep hc hs, fun hc hb => ?_, fun hc hb => ?_⟩
  · rw [rxFeed_terminal_autoReset hc hs, hb, rxFeed_stx rfl]
    rfl
  · rw [rxFeed_terminal_autoReset hc hs, rxFeed_noise rfl hb]
    rfl

/-- Settles O27: no byte is above a capacity of 255, so that the receiver then goes on to CheckChk or ReadData. -/
theorem rxFeedInWaitLen : Obligations.RxFeedInWaitLen := by
  intro b s hs
  refine ⟨_, exec_rxFeed_afterFeed b s, rxFeed_length hs, fun hmax => ?_⟩
  have hcap : ¬ s.cfg.maxPayload.toNat < b.toNat := by rw [hmax]; bv_omega
  rw [rxFeed_length hs]
  simp only [if_neg hcap]
  split <;> decide

theorem memRead_afterFeed {s : State} {b : Byte} {k : Nat} :
    memRead .rxbuf k (s.afterFeed b) =
      if k < s.cfg.maxPayload.toNat then some (Memory.byteAt .rxbuf (rxFeed s.cfg b s.rx).buf k) else none := rfl

/-- Settles O28: within both bounds the one write of RXBUF is at rx_count. -/
theorem rxFeedInReadData : Obligations.RxFeedInReadData := by
  intro b s hs
  refine ⟨fun hbound => ⟨_, exec_rxFeed_afterFeed b s, rxFeed_data_overflow hs hbound⟩, fun hlen hcap => ?_⟩
  have hfeed := rxFeed_data (b := b) hs hlen hcap
  refine ⟨_, _, exec_rxFeed_afterFeed b s, rfl, ?_, ?_, fun k hk => ?_⟩
  · rw [hfeed]
  · rw [memRead_afterFeed, if_pos hcap, hfeed, Memory.byteAt_store_same]
  · rw [memRead_afterFeed, hfeed, Memory.byteAt_store_other _ _ _ hk]
    rfl

/-- Settles O29: the comparisons of R126 and R127 are those of `rxFeedCheckChk` and `rxFeedWaitEtx`. -/
theorem rxFeedChecksTheTrailer : Obligations.RxFeedChecksTheTrailer := fun b s =>
  ⟨fun hs => ⟨_, exec_rxFeed_afterFeed b s, rxFeed_of_checkChk hs⟩,
    fun hs => ⟨_, exec_rxFeed_afterFeed b s, rxFeed_of_waitEtx hs⟩⟩

theorem rxstat_rxSessionReset (rx : RxUnit) : rxstat (rxSessionReset rx) = 0 := by
  simp [rxstat, rxSessionReset, RxState.code, RxErr.code, RxState.status]

theorem packet_of_ne_done {s : State} (h : s.rx.state ≠ .done) : s.packet = none := if_neg h

/-- Settles O30: the session reset drives every field of RXSTAT to 0. -/
theorem rxResetDropsTheSession : Obligations.RxResetDropsTheSession := by
  intro s
  refine ⟨_, exec_rxReset s, ?_, packet_of_ne_done (by simp)⟩
  rw [rxstat_rxSessionReset]
  rfl

/-- Settles O31: with rx_len within the buffer the read never stops (20_memory.md R57 (d)). -/
theorem rxReadReturnsThePacketByte : Obligations.RxReadReturnsThePacketByte := by
  intro a s hmax
  rcases exec_rxRead_cases a s with ⟨hdone, hlen, hcap, hexec⟩ | ⟨hdone, hlen, hcap, -⟩ | ⟨hnot, hexec⟩
  · exact ⟨_, hexec, fun _ => memRead_of_lt hcap, fun hnot => absurd ⟨hdone, hlen⟩ hnot⟩
  · have := hmax hdone
    omega
  · exact ⟨0, hexec, fun h => absurd h hnot, fun _ => rfl⟩

/-! ### A sequence of bytes -/

/-- The receiver after the bytes `q`, fed in order. -/
def rxFeedAll (c : Config) (rx : RxUnit) (q : List Byte) : RxUnit := q.foldl (fun rx b => rxFeed c b rx) rx

/-- The STATUS field of each response while the bytes `q` are fed in order (41_receiver.md R128). -/
def rxStatuses (c : Config) : RxUnit → List Byte → List (BitVec 2)
  | _, [] => []
  | rx, b :: q => (rxFeed c b rx).state.status :: rxStatuses c (rxFeed c b rx) q

@[simp] theorem rxFeedAll_nil (c : Config) (rx : RxUnit) : rxFeedAll c rx [] = rx := rfl
@[simp] theorem rxFeedAll_cons (c : Config) (rx : RxUnit) (b : Byte) (q : List Byte) :
    rxFeedAll c rx (b :: q) = rxFeedAll c (rxFeed c b rx) q := rfl

theorem rxFeedAll_append (c : Config) (rx : RxUnit) (q q' : List Byte) :
    rxFeedAll c rx (q ++ q') = rxFeedAll c (rxFeedAll c rx q) q' :=
  List.foldl_append

theorem rxStatuses_append (c : Config) (rx : RxUnit) (q q' : List Byte) :
    rxStatuses c rx (q ++ q') = rxStatuses c rx q ++ rxStatuses c (rxFeedAll c rx q) q' := by
  induction q generalizing rx with
  | nil => rfl
  | cons b q ih => exact congrArg _ (ih (rxFeed c b rx))

/-- A run of RX_FEEDs never stops; it is the receiver's run, with the receiver's statuses in its responses. -/
theorem execAll_rxFeeds (q : List Byte) (s : State) :
    ∃ os t, execAll (q.map .rxFeed) s = some (os, t) ∧ t.rx = rxFeedAll s.cfg s.rx q ∧
      os.map (fun o => o.resp.extractLsb' 0 2) = rxStatuses s.cfg s.rx q := by
  induction q generalizing s with
  | nil => exact ⟨[], s, rfl, rfl, rfl⟩
  | cons b q ih =>
    obtain ⟨os, t, hexec, hrx, hstatuses⟩ := ih (s.afterFeed b)
    refine ⟨_, t, execAll_cons_of_next (exec_rxFeed_afterFeed b s) hexec, hrx, ?_⟩
    rw [List.map_cons, hstatuses, State.afterFeed_status]
    rfl

/-- Under RX_AUTO_RESET = 0 no byte moves a receiver that is Done or in Error (41_receiver.md R122). -/
theorem rxFeedAll_terminal {c : Config} {rx : RxUnit} (hc : c.rxAutoReset = false)
    (hs : rx.state = .done ∨ rx.state = .error) (q : List Byte) : rxFeedAll c rx q = rx := by
  induction q with
  | nil => rfl
  | cons b q ih => rw [rxFeedAll_cons, rxFeed_terminal_keep hc hs, ih]

/-- The bytes `q` take the receiver from `rx` to `rx'`, and every response on the way is Pending. -/
structure RxPends (c : Config) (rx : RxUnit) (q : List Byte) (rx' : RxUnit) : Prop where
  after : rxFeedAll c rx q = rx'
  statuses : rxStatuses c rx q = List.replicate q.length 0

theorem RxPends.nil (c : Config) (rx : RxUnit) : RxPends c rx [] rx := ⟨rfl, rfl⟩

theorem RxPends.append {c : Config} {rx rx' rx'' : RxUnit} {q q' : List Byte} (h : RxPends c rx q rx')
    (h' : RxPends c rx' q' rx'') : RxPends c rx (q ++ q') rx'' where
  after := by rw [rxFeedAll_append, h.after, h'.after]
  statuses := by
    rw [rxStatuses_append, h.after, h.statuses, h'.statuses, List.replicate_append_replicate, List.length_append]

theorem RxPends.snoc {c : Config} {rx rx' : RxUnit} {q : List Byte} {b : Byte} (h : RxPends c rx q rx')
    (hb : (rxFeed c b rx').state.status = 0) : RxPends c rx (q ++ [b]) (rxFeed c b rx') :=
  h.append ⟨rfl, congrArg (· :: []) hb⟩

/-- A run whose responses are Pending but for that of its last byte. -/
theorem RxPends.execAll_snoc {s : State} {q : List Byte} {rx' : RxUnit} (h : RxPends s.cfg s.rx q rx') (b : Byte) :
    ∃ os t, execAll ((q ++ [b]).map .rxFeed) s = some (os, t) ∧ t.rx = rxFeed s.cfg b rx' ∧
      os.map (fun o => o.resp.extractLsb' 0 2) =
        List.replicate q.length 0 ++ [(rxFeed s.cfg b rx').state.status] := by
  obtain ⟨os, t, hexec, hrx, hstatuses⟩ := execAll_rxFeeds (q ++ [b]) s
  refine ⟨os, t, hexec, ?_, ?_⟩
  · rw [hrx, rxFeedAll_append, h.after]
    rfl
  · rw [hstatuses, rxStatuses_append, h.statuses, h.after]
    rfl

/-! ### The bytes of a frame -/

/-- A frame up to the last byte of its payload (30_encoding.md R80); the CHK byte and ETX follow. -/
def frameBody (c : Config) (p : List Byte) : List Byte := c.stx :: BitVec.ofNat 8 p.length :: p

@[simp] theorem frameBody_length (c : Config) (p : List Byte) : (frameBody c p).length = p.length + 2 := rfl

theorem encodeFrame_eq_frameBody (c : Config) (p : List Byte) :
    encodeFrame c p = frameBody c p ++ [frameChk c p] ++ [c.etx] := by
  simp [encodeFrame_eq, frameBody]

theorem encodeFrame_dropLast (c : Config) (p : List Byte) :
    (encodeFrame c p).dropLast = frameBody c p ++ [frameChk c p] := by
  rw [encodeFrame_eq_frameBody, List.dropLast_concat]

/-- The receiver holds the data bytes `d` of a frame of `len` bytes; they are all of them exactly in CheckChk. -/
structure RxHolds (c : Config) (len : Byte) (d : List Byte) (rx : RxUnit) : Prop where
  state : rx.state = if d.length = len.toNat then .checkChk else .readData
  lenByte : rx.len = len
  count : rx.count.toNat = d.length
  chk : rx.chk = fold c.stx (len :: d)
  data : Memory.slice .rxbuf rx.buf d.length = d

theorem rxPends_noise {c : Config} {rx : RxUnit} {noise : List Byte} (hs : rx.state = .waitStx)
    (hnoise : ∀ b ∈ noise, b ≠ c.stx) : RxPends c rx noise rx := by
  induction noise with
  | nil => exact .nil c rx
  | cons b noise ih =>
    obtain ⟨hb, hrest⟩ := List.forall_mem_cons.mp hnoise
    have hpends := (RxPends.nil c rx).snoc (rxFeed_waitStx_status (b := b) hs)
    rw [rxFeed_noise hs hb] at hpends
    exact hpends.append (ih hrest)

/-- STX and an admitted LEN byte begin a frame with no data yet (41_receiver.md R121, R124). -/
theorem rxPends_open {c : Config} {rx : RxUnit} {len : Byte} (hs : rx.state = .waitStx)
    (hcap : len.toNat ≤ c.maxPayload.toNat) :
    ∃ rx', RxPends c rx [c.stx, len] rx' ∧ RxHolds c len [] rx' := by
  have hstx := (RxPends.nil c rx).snoc (rxFeed_waitStx_status (b := c.stx) hs)
  rw [rxFeed_stx hs] at hstx
  have hlen : rxFeed c len { rx with chk := c.stx, len := 0x00, count := 0x00, state := .waitLen } = { rx with
      chk := c.stx ^^^ len, len := len, count := 0x00, state := if len = 0 then .checkChk else .readData } := by
    rw [rxFeed_length rfl]
    simp only [if_neg (Nat.not_lt.mpr hcap)]
  refine ⟨_, hstx.snoc (b := len) ?_, ?_⟩
  · rw [hlen]; dsimp only; split <;> rfl
  · have hzero : ([] : List Byte).length = len.toNat ↔ len = 0 := by rw [List.length_nil]; bv_omega
    rw [hlen]
    exact ⟨by simp only [hzero], rfl, rfl, rfl, rfl⟩

/-- One more data byte (41_receiver.md R125). -/
theorem RxHolds.feed {c : Config} {len b : Byte} {d : List Byte} {rx : RxUnit} (h : RxHolds c len d rx)
    (hlen : d.length < len.toNat) (hcap : len.toNat ≤ c.maxPayload.toNat) :
    (rxFeed c b rx).state.status = 0 ∧ RxHolds c len (d ++ [b]) (rxFeed c b rx) := by
  have hs : rx.state = .readData := by rw [h.state, if_neg (by omega)]
  have hcount := h.count
  rw [rxFeed_data hs (by rw [h.lenByte]; omega) (by omega)]
  constructor
  · dsimp only; split <;> rfl
  · refine ⟨?_, h.lenByte, ?_, ?_, ?_⟩
    · simp only [List.length_append, List.length_singleton, hcount, h.lenByte]
    · simp only [List.length_append, List.length_singleton]; bv_omega
    · rw [← List.cons_append, fold_append, ← h.chk]; rfl
    · rw [List.length_append, List.length_singleton, hcount, Memory.slice_store_self, h.data]

/-- From WaitStx, the head of a frame with at most LEN data bytes. -/
theorem rxPends_head {c : Config} {rx : RxUnit} {len : Byte} {d : List Byte} (hs : rx.state = .waitStx)
    (hlen : d.length ≤ len.toNat) (hcap : len.toNat ≤ c.maxPayload.toNat) :
    ∃ rx', RxPends c rx (c.stx :: len :: d) rx' ∧ RxHolds c len d rx' := by
  induction d using List.reverseRecOn with
  | nil => exact rxPends_open hs hcap
  | append_singleton d b ih =>
    rw [List.length_append, List.length_singleton] at hlen
    obtain ⟨rx', hpends, hholds⟩ := ih (by omega)
    obtain ⟨hstatus, hholds'⟩ := hholds.feed (b := b) (by omega) hcap
    exact ⟨_, hpends.snoc hstatus, hholds'⟩

/-- All the bytes of a payload: the receiver waits for its checksum. -/
theorem rxPends_payload {c : Config} {rx : RxUnit} {p : List Byte} (hs : rx.state = .waitStx)
    (hcap : p.length ≤ c.maxPayload.toNat) :
    ∃ rx', RxPends c rx (frameBody c p) rx' ∧ rx'.state = .checkChk ∧
      rx'.chk = frameChk c p ∧ Memory.slice .rxbuf rx'.buf rx'.len.toNat = p := by
  have hlen := toNat_ofNat_length hcap
  obtain ⟨rx', hpends, hholds⟩ :=
    rxPends_head hs (d := p) (len := BitVec.ofNat 8 p.length) (by omega) (by omega : _ ≤ c.maxPayload.toNat)
  refine ⟨rx', hpends, by rw [hholds.state, if_pos hlen.symm], hholds.chk, ?_⟩
  rw [hholds.lenByte, hlen, hholds.data]

/-- All the bytes of a frame but its last: the receiver waits for ETX and holds the payload (41_receiver.md R126). -/
theorem rxPends_frame {c : Config} {rx : RxUnit} {p : List Byte} (hs : rx.state = .waitStx)
    (hcap : p.length ≤ c.maxPayload.toNat) :
    ∃ rx', RxPends c rx (encodeFrame c p).dropLast rx' ∧ rx'.state = .waitEtx ∧
      rx'.chk = frameChk c p ∧ Memory.slice .rxbuf rx'.buf rx'.len.toNat = p := by
  obtain ⟨rx', hpends, hstate, hchk, hdata⟩ := rxPends_payload hs hcap
  have hfeed := rxFeed_chk (c := c) hstate
  have hpends' := hpends.snoc (b := rx'.chk) (by rw [hfeed]; rfl)
  rw [hfeed] at hpends'
  rw [encodeFrame_dropLast, ← hchk]
  exact ⟨_, hpends', rfl, rfl, hdata⟩

/-! ### Whole frames, and frames with one fault -/

theorem packet_of_done {s : State} (h : s.rx.state = .done) :
    s.packet = some (Memory.slice .rxbuf s.rx.buf s.rx.len.toNat, s.rx.chk) := if_pos h

/-- Settles O32: the noise leaves the receiver as it is, and the last byte of the frame completes the packet. -/
theorem receiverRoundTrip : Obligations.ReceiverRoundTrip := by
  intro s noise p hs hcap hnoise
  obtain ⟨rx, hpends, hstate, hchk, hdata⟩ := rxPends_frame hs hcap
  obtain ⟨os, t, hexec, hrx, hstatuses⟩ := ((rxPends_noise hs hnoise).append hpends).execAll_snoc s.cfg.etx
  rw [rxFeed_etx hstate] at hrx hstatuses
  refine ⟨os, t, ?_, ?_, ?_⟩
  · rw [← hexec, encodeFrame_dropLast, List.append_assoc, ← encodeFrame_eq_frameBody]
  · rw [packet_of_done (by rw [hrx]), hrx]
    simp only [hdata, hchk]
  · rw [hstatuses, List.length_append, List.length_dropLast, encodeFrame_length]
    rfl

/-- A payload followed by a byte that is not its checksum (41_receiver.md R126). -/
theorem execAll_wrong_chk {s : State} {p : List Byte} {b : Byte} (hs : s.rx.state = .waitStx)
    (hcap : p.length ≤ s.cfg.maxPayload.toNat) (hb : b ≠ frameChk s.cfg p) :
    ∃ os t, execAll ((frameBody s.cfg p ++ [b]).map .rxFeed) s = some (os, t) ∧
      t.rx.state = .error ∧ t.rx.err = .checksumMismatch ∧
      os.map (fun o => o.resp.extractLsb' 0 2) = List.replicate (p.length + 2) 0 ++ [2] := by
  obtain ⟨rx, hpends, hstate, hchk, -⟩ := rxPends_payload hs hcap
  obtain ⟨os, t, hexec, hrx, hstatuses⟩ := hpends.execAll_snoc b
  rw [rxFeed_chk_mismatch hstate (by rwa [hchk])] at hrx hstatuses
  exact ⟨os, t, hexec, by rw [hrx], by rw [hrx], hstatuses⟩

theorem xor_ne_self {x : Byte} (hx : x ≠ 0) (b : Byte) : b ^^^ x ≠ b := fun h => hx (by simpa using h)

/-- A changed data byte changes the checksum (40_checksum.md R106). -/
theorem frameChk_change_ne (c : Config) {x y : Byte} (h : x ≠ y) (p q : List Byte) :
    frameChk c (p ++ x :: q) ≠ frameChk c (p ++ y :: q) := by
  have hfold := fold_change_ne h.symm (c.stx ^^^ BitVec.ofNat 8 (p ++ x :: q).length) p q
  simpa [frameChk_eq] using hfold

theorem modify_length_append {α : Type} (f : α → α) (p q : List α) (a : α) :
    (p ++ a :: q).modify p.length f = p ++ f a :: q := by
  simp [List.modify_eq_take_drop]

/-- The frame up to its CHK byte, with one byte changed at a position from 2 on: a data byte or the CHK byte. -/
theorem encodeFrame_modify_take (c : Config) (p : List Byte) (i : Nat) (f : Byte → Byte) :
    ((encodeFrame c p).modify (i + 2) f).take (p.length + 3) =
      c.stx :: BitVec.ofNat 8 p.length :: (p ++ [frameChk c p]).modify i f := by
  rw [encodeFrame_eq_frameBody, List.take_modify, List.take_left' (by simp), frameBody, List.cons_append,
    List.cons_append, List.modify_succ_cons, List.modify_succ_cons]

/-- Settles O33: a changed data byte changes the computed checksum, a changed CHK byte the received one. -/
theorem changedDataOrChkByteIsDetected : Obligations.ChangedDataOrChkByteIsDetected := by
  intro s p j x hs hcap hj hjp hx
  obtain ⟨i, rfl⟩ := Nat.exists_eq_add_of_le' hj
  rw [encodeFrame_modify_take]
  by_cases hi : i < p.length
  · obtain ⟨xs, y, ys, rfl, rfl⟩ : ∃ xs y ys, p = xs ++ y :: ys ∧ xs.length = i :=
      ⟨p.take i, p[i], p.drop (i + 1), by simp, by simp; omega⟩
    have hchk := frameChk_change_ne s.cfg (xor_ne_self hx y).symm xs ys
    have hwrong := execAll_wrong_chk hs (by simpa using hcap) hchk
    rw [List.append_assoc, List.cons_append, modify_length_append]
    simpa [frameBody] using hwrong
  · obtain rfl : i = p.length := by omega
    rw [modify_length_append]
    exact execAll_wrong_chk hs hcap (xor_ne_self hx (frameChk s.cfg p))

/-- Settles O34: the last byte meets a receiver that waits for ETX. -/
theorem wrongTerminatorIsAFramingError : Obligations.WrongTerminatorIsAFramingError := by
  intro s p b hs hcap hb
  obtain ⟨rx, hpends, hstate, -, -⟩ := rxPends_frame hs hcap
  obtain ⟨os, t, hexec, hrx, hstatuses⟩ := hpends.execAll_snoc b
  rw [rxFeed_etx_mismatch hstate hb] at hrx hstatuses
  refine ⟨os, t, hexec, by rw [hrx], by rw [hrx], ?_⟩
  rw [hstatuses, List.length_dropLast, encodeFrame_length]
  rfl

/-! ### The class of every byte sequence -/

/-- The classes of 41_receiver.md R139, for the bytes `r` from the first STX on: `r` begins with a whole frame; `r` has
left every frame; `r` is the beginning of a frame and not yet all of it (log 19). -/
inductive FrameClass (c : Config) (r : List Byte) : RxState → Prop where
  | complete {p : List Byte} (hcap : p.length ≤ c.maxPayload.toNat) (hbegins : encodeFrame c p <+: r) :
      FrameClass c r .done
  | failed (hleft : ∀ p t u, p.length ≤ c.maxPayload.toNat → encodeFrame c p ++ t ≠ r ++ u) :
      FrameClass c r .error
  | assembling {st : RxState} {p : List Byte} (hdone : st ≠ .done) (herror : st ≠ .error)
      (hcap : p.length ≤ c.maxPayload.toNat) (hbegins : r <+: encodeFrame c p) (hproper : r.length < p.length + 4) :
      FrameClass c r st

/-- Where a frame meets given bytes after their LEN byte. -/
theorem encodeFrame_append_eq_cons_cons {c : Config} {p t rest : List Byte} {b len : Byte}
    (hcap : p.length ≤ c.maxPayload.toNat) (h : encodeFrame c p ++ t = b :: len :: rest) :
    p.length = len.toNat ∧ p ++ frameChk c p :: c.etx :: t = rest := by
  simp only [encodeFrame_eq, List.cons_append, List.append_assoc, List.nil_append, List.cons.injEq] at h
  obtain ⟨-, rfl, hrest⟩ := h
  exact ⟨(toNat_ofNat_length hcap).symm, hrest⟩

/-- Only the frame of `p` goes on from the body of `p`, and only with its own trailer. -/
theorem encodeFrame_append_eq_frameBody {c : Config} {p q t v : List Byte} (hq : q.length ≤ c.maxPayload.toNat)
    (hp : p.length ≤ c.maxPayload.toNat) (h : encodeFrame c q ++ t = frameBody c p ++ v) :
    q = p ∧ frameChk c p :: c.etx :: t = v := by
  obtain ⟨hlen, hrest⟩ := encodeFrame_append_eq_cons_cons hq h
  rw [toNat_ofNat_length hp] at hlen
  obtain ⟨rfl, hv⟩ := List.append_inj hrest hlen
  exact ⟨rfl, hv⟩

/-- No valid frame begins another. -/
theorem eq_of_encodeFrame_isPrefix {c : Config} {p q : List Byte} (hq : q.length ≤ c.maxPayload.toNat)
    (hp : p.length ≤ c.maxPayload.toNat) (h : encodeFrame c q <+: encodeFrame c p) : q = p := by
  obtain ⟨t, ht⟩ := h
  rw [encodeFrame_eq_frameBody c p, List.append_assoc] at ht
  exact (encodeFrame_append_eq_frameBody hq hp ht).1

theorem FrameClass.done_iff {c : Config} {r : List Byte} {st : RxState} (h : FrameClass c r st) :
    st = .done ↔ ∃ f, validFrame c f = true ∧ f <+: r := by
  cases h with
  | complete hcap hbegins => exact iff_of_true rfl ⟨_, validFrame_encodeFrame hcap, hbegins⟩
  | failed hleft =>
    refine iff_of_false (by decide) ?_
    rintro ⟨f, hf, t, rfl⟩
    obtain ⟨q, hq, rfl⟩ := eq_encodeFrame_of_validFrame hf
    exact hleft q t [] hq (List.append_nil _).symm
  | assembling hdone _ hcap hbegins hproper =>
    refine iff_of_false hdone ?_
    rintro ⟨f, hf, hfr⟩
    obtain ⟨q, hq, rfl⟩ := eq_encodeFrame_of_validFrame hf
    obtain rfl := eq_of_encodeFrame_isPrefix hq hcap (hfr.trans hbegins)
    have hle := hfr.length_le
    rw [encodeFrame_length] at hle
    omega

theorem FrameClass.error_iff {c : Config} {r : List Byte} {st : RxState} (h : FrameClass c r st) :
    st = .error ↔ ¬ ∃ f, validFrame c f = true ∧ (f <+: r ∨ r <+: f) := by
  cases h with
  | complete hcap hbegins =>
    exact iff_of_false (by decide) (not_not_intro ⟨_, validFrame_encodeFrame hcap, .inl hbegins⟩)
  | failed hleft =>
    refine iff_of_true rfl ?_
    rintro ⟨f, hf, hmeet⟩
    obtain ⟨q, hq, rfl⟩ := eq_encodeFrame_of_validFrame hf
    rcases hmeet with ⟨t, ht⟩ | ⟨u, hu⟩
    · exact hleft q t [] hq (by rw [List.append_nil, ht])
    · exact hleft q [] u hq (by rw [List.append_nil, hu])
  | assembling _ herror hcap hbegins _ =>
    exact iff_of_false herror (not_not_intro ⟨_, validFrame_encodeFrame hcap, .inr hbegins⟩)

/-- The receiver that was fed `r` from `rx` on stands in the state of `r`'s class. -/
def Classified (c : Config) (rx : RxUnit) (r : List Byte) : Prop := FrameClass c r (rxFeedAll c rx r).state

section

variable {c : Config} {rx : RxUnit}

theorem Classified.of_done {p tail : List Byte} (hc : c.rxAutoReset = false) (hcap : p.length ≤ c.maxPayload.toNat)
    (hs : (rxFeedAll c rx (encodeFrame c p)).state = .done) : Classified c rx (encodeFrame c p ++ tail) := by
  rw [Classified, rxFeedAll_append, rxFeedAll_terminal hc (.inl hs), hs]
  exact .complete hcap (List.prefix_append _ _)

theorem Classified.of_error {r tail : List Byte} (hc : c.rxAutoReset = false)
    (hs : (rxFeedAll c rx r).state = .error)
    (hleft : ∀ p t u, p.length ≤ c.maxPayload.toNat → encodeFrame c p ++ t ≠ r ++ u) :
    Classified c rx (r ++ tail) := by
  rw [Classified, rxFeedAll_append, rxFeedAll_terminal hc (.inr hs), hs]
  refine .failed fun p t u hcap => ?_
  rw [List.append_assoc]
  exact hleft p t (tail ++ u) hcap

/-- A LEN byte above the capacity (41_receiver.md R138). -/
theorem classified_of_len_gt {len : Byte} (rest : List Byte) (hc : c.rxAutoReset = false) (hs : rx.state = .waitStx)
    (hcap : c.maxPayload.toNat < len.toNat) : Classified c rx (c.stx :: len :: rest) := by
  refine Classified.of_error (r := [c.stx, len]) hc ?_ fun p t u hp h => ?_
  · rw [rxFeedAll_cons, rxFeed_stx hs, rxFeedAll_cons, rxFeed_length rfl]
    exact if_pos hcap
  · have hlen := (encodeFrame_append_eq_cons_cons hp h).1
    omega

/-- At most LEN data bytes: any frame that fills them up goes on. -/
theorem exists_encodeFrame_of_head (c : Config) {len : Byte} {d : List Byte} (hlen : d.length ≤ len.toNat) :
    ∃ p : List Byte, p.length = len.toNat ∧ c.stx :: len :: d <+: encodeFrame c p := by
  have hfill : (d ++ List.replicate (len.toNat - d.length) 0).length = len.toNat := by simp; omega
  refine ⟨_, hfill, ?_⟩
  rw [encodeFrame_eq, hfill, BitVec.ofNat_toNat, BitVec.setWidth_eq, List.append_assoc]
  exact ⟨_, rfl⟩

theorem classified_head {len : Byte} {d : List Byte} (hs : rx.state = .waitStx) (hlen : d.length ≤ len.toNat)
    (hcap : len.toNat ≤ c.maxPayload.toNat) : Classified c rx (c.stx :: len :: d) := by
  obtain ⟨rx', hpends, hholds⟩ := rxPends_head hs hlen hcap
  obtain ⟨p, hp, hbegins⟩ := exists_encodeFrame_of_head c hlen
  rw [Classified, hpends.after, hholds.state]
  refine .assembling ?_ ?_ (by omega) hbegins (by simp only [List.length_cons]; omega)
  · split <;> decide
  · split <;> decide

/-- A byte in the place of the checksum that is not the checksum. -/
theorem classified_of_wrong_chk {p : List Byte} {x : Byte} (v : List Byte) (hc : c.rxAutoReset = false)
    (hs : rx.state = .waitStx) (hcap : p.length ≤ c.maxPayload.toNat) (hx : x ≠ frameChk c p) :
    Classified c rx (frameBody c p ++ [x] ++ v) := by
  obtain ⟨rx', hpends, hstate, hchk, -⟩ := rxPends_payload hs hcap
  refine Classified.of_error hc ?_ fun q t u hq h => ?_
  · rw [rxFeedAll_append, hpends.after, rxFeedAll_cons, rxFeed_chk_mismatch hstate (by rwa [hchk])]
    rfl
  · rw [List.append_assoc] at h
    obtain ⟨rfl, htrailer⟩ := encodeFrame_append_eq_frameBody hq hcap h
    exact hx (List.cons.inj htrailer).1.symm

/-- The frame but for its last byte: only ETX completes it. -/
theorem classified_dropLast_append {p : List Byte} (v : List Byte) (hc : c.rxAutoReset = false)
    (hs : rx.state = .waitStx) (hcap : p.length ≤ c.maxPayload.toNat) :
    Classified c rx ((encodeFrame c p).dropLast ++ v) := by
  obtain ⟨rx', hpends, hstate, -, -⟩ := rxPends_frame hs hcap
  cases v with
  | nil =>
    rw [List.append_nil, Classified, hpends.after, hstate]
    exact .assembling (by decide) (by decide) hcap (List.dropLast_prefix _) (by simp)
  | cons y v =>
    have hfeed : rxFeedAll c rx ((encodeFrame c p).dropLast ++ [y]) = rxFeed c y rx' := by
      rw [rxFeedAll_append, hpends.after]; rfl
    rw [List.append_cons]
    by_cases hy : y = c.etx
    · subst hy
      rw [rxFeed_etx hstate, encodeFrame_dropLast, ← encodeFrame_eq_frameBody] at hfeed
      rw [encodeFrame_dropLast, ← encodeFrame_eq_frameBody]
      exact .of_done hc hcap (by rw [hfeed])
    · rw [rxFeed_etx_mismatch hstate hy] at hfeed
      refine .of_error hc (by rw [hfeed]) fun q t u hq h => hy ?_
      rw [encodeFrame_dropLast, List.append_assoc, List.append_assoc] at h
      obtain ⟨rfl, htrailer⟩ := encodeFrame_append_eq_frameBody hq hcap h
      exact (List.cons.inj (List.cons.inj htrailer).2).1.symm

/-- All the data bytes are there: the next byte must be the checksum. -/
theorem classified_frameBody_append {p : List Byte} (x : Byte) (v : List Byte) (hc : c.rxAutoReset = false)
    (hs : rx.state = .waitStx) (hcap : p.length ≤ c.maxPayload.toNat) :
    Classified c rx (frameBody c p ++ [x] ++ v) := by
  by_cases hx : x = frameChk c p
  · rw [hx, ← encodeFrame_dropLast]
    exact classified_dropLast_append v hc hs hcap
  · exact classified_of_wrong_chk v hc hs hcap hx

/-- The places of a frame in turn: LEN, the data, CHK and ETX. -/
theorem classified_stx_cons (r : List Byte) (hc : c.rxAutoReset = false) (hs : rx.state = .waitStx) :
    Classified c rx (c.stx :: r) := by
  cases r with
  | nil =>
    rw [Classified, rxFeedAll_cons, rxFeed_stx hs]
    exact .assembling (p := []) nofun nofun (Nat.zero_le _) ⟨_, rfl⟩ (by simp)
  | cons len rest =>
    by_cases hcap : len.toNat ≤ c.maxPayload.toNat
    · by_cases hlen : rest.length ≤ len.toNat
      · exact classified_head hs hlen hcap
      · have hp : (rest.take len.toNat).length = len.toNat := by simp; omega
        have hrest : c.stx :: len :: rest =
            frameBody c (rest.take len.toNat) ++ [rest[len.toNat]] ++ rest.drop (len.toNat + 1) := by
          rw [frameBody, hp, BitVec.ofNat_toNat, BitVec.setWidth_eq]
          simp
        rw [hrest]
        exact classified_frameBody_append _ _ hc hs (hp.trans_le hcap)
    · exact classified_of_len_gt rest hc hs (by omega)

/-- From the first STX on; without one the receiver has not moved. -/
theorem classified_dropWhile (q : List Byte) (hc : c.rxAutoReset = false) (hs : rx.state = .waitStx) :
    Classified c rx (q.dropWhile (· ≠ c.stx)) := by
  cases hr : q.dropWhile (· ≠ c.stx) with
  | nil =>
    rw [Classified, rxFeedAll_nil, hs]
    exact .assembling (p := []) nofun nofun (Nat.zero_le _) List.nil_prefix (by simp)
  | cons b r =>
    have hb := List.head?_dropWhile_not (· ≠ c.stx) q
    rw [hr] at hb
    obtain rfl : b = c.stx := by simpa using hb
    exact classified_stx_cons r hc hs

end

/-- Settles O35: the bytes before the first STX are noise, and the rest has the class of its receiver's state. -/
theorem receiverClassifiesEverySequence : Obligations.ReceiverClassifiesEverySequence := by
  intro s q hs hc
  obtain ⟨os, t, hexec, hrx, -⟩ := execAll_rxFeeds q s
  have hnoise : ∀ b ∈ q.takeWhile (· ≠ s.cfg.stx), b ≠ s.cfg.stx := fun b hb => by
    simpa using List.mem_takeWhile_imp hb
  have hafter : t.rx = rxFeedAll s.cfg s.rx (q.dropWhile (· ≠ s.cfg.stx)) := by
    rw [hrx, ← List.takeWhile_append_dropWhile (p := (· ≠ s.cfg.stx)) (l := q), rxFeedAll_append,
      (rxPends_noise hs hnoise).after, List.takeWhile_append_dropWhile]
  have hclass : FrameClass s.cfg (q.dropWhile (· ≠ s.cfg.stx)) t.rx.state := by
    rw [hafter]
    exact classified_dropWhile q hc hs
  exact ⟨os, t, hexec, hclass.done_iff, hclass.error_iff⟩

end Sys2Proof.Machine

/-! PROOFS. The transmitter (42_transmitter.md): TX_LOAD, TX_BEGIN and TX_RESET, what TX_NEXT emits in each state, and
the bytes of a whole frame. -/

namespace Sys2Proof.Machine

/-! ### TX_LOAD, TX_BEGIN and TX_RESET as whole next states -/

/-- The three states in which a TX_LOAD is legal are those outside a frame (42_transmitter.md R151). -/
theorem midFrame_eq_false_iff (st : TxState) : st.midFrame = false ↔ st ∈ [TxState.idle, .done, .error] := by
  cases st <;> decide

/-- Settles O36: the one write is a store at index A, and the laws of the buffer say what it changes. -/
theorem txLoadStoresOneByte : Obligations.TxLoadStoresOneByte := by
  intro a d s hbusy hrest ha
  have hlegal : loadIllegal a s = false :=
    (Safety.loadIllegal_eq_false_iff a s).mpr ⟨hbusy, (midFrame_eq_false_iff _).mpr hrest, ha⟩
  refine ⟨_, exec_txLoad_legal hlegal, rfl, ?_, fun k hk => ?_, Memory.wf_store a.toNat d⟩
  · exact memRead_eq_some.mpr ⟨ha, Memory.byteAt_store_same .txbuf s.tx.buf a.toNat d⟩
  · exact congrArg (if k < s.cfg.maxPayload.toNat then some · else none)
      (Memory.byteAt_store_other .txbuf s.tx.buf d hk)

/-- The state that a legal TX_BEGIN leaves (42_transmitter.md R152). -/
def State.afterBegin (s : State) (n : Index) : State :=
  { s with tx := txBegin s.cfg n s.tx, out := Outputs.response (txstat (txBegin s.cfg n s.tx)) }

theorem exec_txBegin_afterBegin {s : State} (n : Index) (h : arqBusy s = false) :
    exec (.txBegin n) s = .next (s.afterBegin n) := by
  rw [exec_txBegin, if_neg (ne_true_of_eq_false h)]
  rfl

/-- A packet that is read from the first bytes of a buffer is that slice of it. -/
theorem slice_eq_of_memRead {sp : Space} {s : State} {p : List Byte}
    (h : ∀ i (hi : i < p.length), memRead sp i s = some p[i]) : Memory.slice sp (s.buffer sp) p.length = p :=
  Memory.slice_eq_of_bytes fun i hi => (memRead_eq_some.mp (h i hi)).2

/-- tx_begin of a packet in TXBUF that the capacity admits (42_transmitter.md R155, 40_checksum.md R101). -/
theorem txBegin_of_packet {n : Index} {s : State} {p : List Byte} (hcap : n.toNat ≤ s.cfg.maxPayload.toNat)
    (hlen : p.length = n.toNat) (hp : ∀ i (h : i < p.length), memRead .txbuf i s = some p[i]) :
    txBegin s.cfg n s.tx = { state := .sendStx, err := .none, len := n.setWidth 8, cursor := 0x00,
                             chk := frameChk s.cfg p, buf := s.tx.buf } := by
  have hslice : Memory.slice .txbuf s.tx.buf n.toNat = p := hlen ▸ slice_eq_of_memRead hp
  rw [txBegin_of_le hcap, hslice, frameChk, hlen, BitVec.ofNat_toNat]

/-- Settles O37: `txBegin_of_packet` says what the session is, and the command writes nothing beside it. -/
theorem txBeginStartsTheFrame : Obligations.TxBeginStartsTheFrame := fun _ _ _ hbusy hcap hlen hp =>
  ⟨_, exec_txBegin_afterBegin _ hbusy, txBegin_of_packet hcap hlen hp⟩

theorem txstat_txSessionReset (tx : TxUnit) : txstat (txSessionReset tx) = 0 := by
  simp [txstat, txSessionReset, TxState.code, TxErr.code, TxState.status]

/-- Settles O41: the session reset drives every field of TXSTAT to 0. -/
theorem txResetReturnsToIdle : Obligations.TxResetReturnsToIdle := by
  intro s hbusy
  rw [exec_txReset_not_busy hbusy, txstat_txSessionReset]
  rfl

/-! ### One byte, state by state -/

theorem txNext_sendStx {c : Config} {tx : TxUnit} (hs : tx.state = .sendStx) :
    txNext c tx = .ok ({ tx with state := .sendLen }, some { data := c.stx, final := false }) := by
  rw [txNext, hs]

theorem txNext_sendLen {c : Config} {tx : TxUnit} (hs : tx.state = .sendLen) :
    txNext c tx = .ok ({ tx with state := if tx.len = 0 then .sendChk else .sendData },
      some { data := tx.len, final := false }) := by
  rw [txNext, hs]

theorem txNext_sendData {c : Config} {tx : TxUnit} (hs : tx.state = .sendData)
    (hcap : tx.cursor.toNat < c.maxPayload.toNat) :
    txNext c tx = .ok ({ tx with
        cursor := tx.cursor + 1
        state := if tx.cursor + 1 = tx.len then .sendChk else .sendData },
      some { data := Memory.byteAt .txbuf tx.buf tx.cursor.toNat, final := false }) := by
  rw [txNext, hs]
  exact if_pos hcap

theorem txNext_sendChk {c : Config} {tx : TxUnit} (hs : tx.state = .sendChk) :
    txNext c tx = .ok ({ tx with state := .sendEtx }, some { data := tx.chk, final := false }) := by
  rw [txNext, hs]

theorem txNext_sendEtx {c : Config} {tx : TxUnit} (hs : tx.state = .sendEtx) :
    txNext c tx = .ok ({ tx with state := .done }, some { data := c.etx, final := true }) := by
  rw [txNext, hs]

/-- Outside a frame tx_next emits nothing and moves nothing (42_transmitter.md R157). -/
theorem txNext_rest {c : Config} {tx : TxUnit} (hs : tx.state.midFrame = false) : txNext c tx = .ok (tx, none) := by
  have hrest : tx.state = .idle ∨ tx.state = .done ∨ tx.state = .error := by
    simpa using (midFrame_eq_false_iff _).mp hs
  rcases hrest with h | h | h <;> rw [txNext, h]

theorem exec_txNext_rest {s : State} (hbusy : arqBusy s = false) (hs : s.tx.state.midFrame = false) :
    exec .txNext s = .next (s.respond (txnextWord s.tx none)) :=
  exec_txNext_ok hbusy (txNext_rest hs)

/-- Settles O39: state by state, the session that tx_next leaves and its emission on the outputs. -/
theorem txNextEmitsInFrameOrder : Obligations.TxNextEmitsInFrameOrder := by
  intro s hbusy
  refine ⟨fun hs => ?sendStx, fun hs => ?sendLen, fun b hs hread => ?sendData, fun hs => ?sendChk,
    fun hs => ?sendEtx, fun hs => ?rest⟩
  case sendStx => exact ⟨_, _, exec_txNext_ok hbusy (txNext_sendStx hs), rfl⟩
  case sendLen => exact ⟨_, _, exec_txNext_ok hbusy (txNext_sendLen hs), rfl⟩
  case sendData =>
    obtain ⟨hcap, rfl⟩ := memRead_eq_some.mp hread
    exact ⟨_, _, exec_txNext_ok hbusy (txNext_sendData hs hcap), rfl⟩
  case sendChk => exact ⟨_, _, exec_txNext_ok hbusy (txNext_sendChk hs), rfl⟩
  case sendEtx => exact ⟨_, _, exec_txNext_ok hbusy (txNext_sendEtx hs), rfl⟩
  case rest => exact ⟨_, exec_txNext_rest hbusy ((midFrame_eq_false_iff _).mpr hs)⟩

/-! ### After an overflow -/

/-- Error(Overflow) answers FAILED and OVERFLOW with no byte (30_encoding.md R79, 42_transmitter.md R162). -/
theorem txnextWord_overflow {tx : TxUnit} (hs : tx.state = .error) (herr : tx.err = .overflow) :
    txnextWord tx none = 0x00001C00 := by
  rw [txnextWord, hs, herr]
  rfl

/-- In Error(Overflow) every TX_NEXT is the same: it changes the outputs only. -/
theorem execAll_txNexts_overflow (k : Nat) {s : State} (hbusy : arqBusy s = false) (hs : s.tx.state = .error)
    (herr : s.tx.err = .overflow) :
    ∃ t, execAll (List.replicate k .txNext) s = some (List.replicate k (Outputs.response 0x00001C00), t) := by
  induction k generalizing s with
  | zero => exact ⟨s, rfl⟩
  | succ k ih =>
    have hexec : exec .txNext s = .next (s.respond 0x00001C00) := by
      rw [exec_txNext_rest hbusy (by rw [hs]; rfl), txnextWord_overflow hs herr]
    obtain ⟨t, hrest⟩ := ih (s := s.respond 0x00001C00) hbusy hs herr
    exact ⟨t, execAll_cons_of_next hexec hrest⟩

theorem txoTrace_eq_nil {os : List Outputs} (h : ∀ o ∈ os, o.txoValid = false) : txoTrace os = [] := by
  induction os with
  | nil => rfl
  | cons o os ih =>
    obtain ⟨ho, hos⟩ := List.forall_mem_cons.mp h
    rw [txoTrace, if_neg (ne_true_of_eq_false ho), ih hos]

/-- Settles O38: the begin leaves Error(Overflow), and there no TX_NEXT emits. -/
theorem overflowingBeginEmitsNothing : Obligations.OverflowingBeginEmitsNothing := by
  intro n s k hbusy hgt
  have hbegin := exec_txBegin_afterBegin n hbusy
  have htx : (s.afterBegin n).tx = _ := txBegin_of_gt hgt
  obtain ⟨t, hrest⟩ := execAll_txNexts_overflow k (s := s.afterBegin n) hbusy (by rw [htx]) (by rw [htx])
  refine ⟨⟨_, hbegin, htx⟩, _, t, execAll_cons_of_next hbegin hrest, rfl, txoTrace_eq_nil fun o ho => ?_⟩
  rcases List.mem_cons.mp ho with rfl | ho
  · rfl
  · rw [List.eq_of_mem_replicate ho]
    rfl

/-! ### A sequence of bytes -/

/-- Calls of tx_next, each of which emits, take the transmitter from `tx` to `tx'`; `es` is what they emit. -/
inductive TxEmits (c : Config) : TxUnit → List Emission → TxUnit → Prop
  | nil (tx : TxUnit) : TxEmits c tx [] tx
  | cons {tx tx' tx'' : TxUnit} {e : Emission} {es : List Emission} (hnext : txNext c tx = .ok (tx', some e))
      (hrest : TxEmits c tx' es tx'') : TxEmits c tx (e :: es) tx''

theorem TxEmits.single {c : Config} {tx tx' : TxUnit} {e : Emission} (h : txNext c tx = .ok (tx', some e)) :
    TxEmits c tx [e] tx' :=
  .cons h (.nil tx')

theorem TxEmits.append {c : Config} {tx tx' tx'' : TxUnit} {es es' : List Emission} (h : TxEmits c tx es tx')
    (h' : TxEmits c tx' es' tx'') : TxEmits c tx (es ++ es') tx'' := by
  induction h with
  | nil => exact h'
  | cons hnext _ ih => exact .cons hnext (ih h')

/-- While the controller is not busy TX_NEXT is the call of tx_next, with its emission on txo. -/
theorem TxEmits.execAll_txNexts {c : Config} {tx tx' : TxUnit} {es : List Emission} (h : TxEmits c tx es tx')
    {s : State} (hcfg : s.cfg = c) (htx : s.tx = tx) (hbusy : arqBusy s = false) :
    ∃ os t, execAll (List.replicate es.length .txNext) s = some (os, t) ∧ (∀ o ∈ os, o.txoValid = true) ∧
      os.map (fun o => (o.txoData, o.txoFinal)) = es.map (fun e => (e.data, e.final)) ∧ t.tx = tx' := by
  induction h generalizing s with
  | nil => exact ⟨[], s, rfl, nofun, rfl, htx⟩
  | @cons tx tx₁ tx'' e es hnext _ ih =>
    subst hcfg htx
    obtain ⟨os, t, hexec, hvalid, hbytes, ht⟩ :=
      ih (s := ((s.setTx tx₁).respond (txnextWord tx₁ (some e))).emit (some e)) rfl rfl hbusy
    refine ⟨_, t, execAll_cons_of_next (exec_txNext_ok hbusy hnext) hexec, ?_, ?_, ht⟩
    · exact List.forall_mem_cons.mpr ⟨rfl, hvalid⟩
    · rw [List.map_cons, hbytes]
      rfl

/-! ### The bytes of a frame -/

/-- A byte that is not the last of its frame. -/
def Emission.inner (b : Byte) : Emission := { data := b, final := false }

/-- What the transmitter emits for the packet `p`: the bytes of its frame, the last one final (42_transmitter.md
R160). -/
def frameEmissions (c : Config) (p : List Byte) : List Emission :=
  (frameBody c p ++ [frameChk c p]).map Emission.inner ++ [{ data := c.etx, final := true }]

@[simp] theorem frameEmissions_length (c : Config) (p : List Byte) : (frameEmissions c p).length = p.length + 4 := by
  simp [frameEmissions]

theorem zip_replicate_length {α β : Type} (l : List α) (b : β) :
    l.zip (List.replicate l.length b) = l.map (·, b) := by
  simpa using (List.zip_map' : (l.map id).zip (l.map fun _ => b) = _)

theorem frameEmissions_eq_zip (c : Config) (p : List Byte) :
    (frameEmissions c p).map (fun e => (e.data, e.final)) =
      (encodeFrame c p).zip (List.replicate (p.length + 3) false ++ [true]) := by
  have hlen : (frameBody c p ++ [frameChk c p]).length = p.length + 3 := by simp
  rw [encodeFrame_eq_frameBody, List.zip_append (by simp), ← hlen, zip_replicate_length, frameEmissions,
    List.map_append, List.map_map]
  rfl

section

variable {c : Config} {tx : TxUnit}

/-- The session `tx` with `k` data bytes of its frame emitted; they are all of them exactly in SendChk. -/
def TxUnit.emittedData (tx : TxUnit) (k : Byte) : TxUnit :=
  { tx with cursor := k, state := if k = tx.len then .sendChk else .sendData }

/-- STX and the LEN byte (42_transmitter.md R157). -/
theorem txEmits_head (hs : tx.state = .sendStx) (hcursor : tx.cursor = 0) :
    TxEmits c tx ([c.stx, tx.len].map Emission.inner) (tx.emittedData 0) := by
  have hafter : tx.emittedData 0 = { tx with state := if tx.len = 0 then .sendChk else .sendData } := by
    simp only [TxUnit.emittedData, hcursor, @eq_comm _ 0 tx.len]
  rw [hafter]
  exact .cons (txNext_sendStx hs) (.single (txNext_sendLen rfl))

theorem txNext_emittedData {k : Byte} (hk : k.toNat < tx.len.toNat) (hcap : tx.len.toNat ≤ c.maxPayload.toNat) :
    txNext c (tx.emittedData k) =
      .ok (tx.emittedData (k + 1), some (.inner (Memory.byteAt .txbuf tx.buf k.toNat))) :=
  have hs : (tx.emittedData k).state = .sendData := if_neg (by bv_omega)
  txNext_sendData hs (hk.trans_le hcap)

/-- The data bytes are those of TXBUF, in index order. -/
theorem txEmits_slice (hcap : tx.len.toNat ≤ c.maxPayload.toNat) {k : Nat} (hk : k ≤ tx.len.toNat) :
    TxEmits c (tx.emittedData 0) ((Memory.slice .txbuf tx.buf k).map Emission.inner)
      (tx.emittedData (BitVec.ofNat 8 k)) := by
  induction k with
  | zero => exact .nil _
  | succ k ih =>
    have hcursor : (BitVec.ofNat 8 k).toNat = k := Nat.mod_eq_of_lt (by omega)
    have hnext := txNext_emittedData (c := c) (tx := tx) (k := BitVec.ofNat 8 k) (by omega) hcap
    rw [hcursor] at hnext
    rw [Memory.slice_succ, List.map_append, BitVec.ofNat_add]
    exact (ih (by omega)).append (.single hnext)

/-- The CHK byte and ETX. -/
theorem txEmits_tail (hs : tx.state = .sendChk) :
    TxEmits c tx [.inner tx.chk, { data := c.etx, final := true }] { tx with state := .done } :=
  .cons (txNext_sendChk hs) (.single (txNext_sendEtx rfl))

/-- From SendStx a session that holds the packet `p` emits the frame of `p` and is Done (42_transmitter.md R160). -/
theorem txEmits_frame {p : List Byte} (hs : tx.state = .sendStx) (hcursor : tx.cursor = 0)
    (hcap : p.length ≤ c.maxPayload.toNat) (hlen : tx.len = BitVec.ofNat 8 p.length) (hchk : tx.chk = frameChk c p)
    (hp : Memory.slice .txbuf tx.buf p.length = p) :
    TxEmits c tx (frameEmissions c p) { tx with cursor := tx.len, state := .done } := by
  have hlen' : tx.len.toNat = p.length := by rw [hlen, toNat_ofNat_length hcap]
  have hdata := txEmits_slice (hlen'.trans_le hcap) hlen'.ge
  rw [hp, ← hlen] at hdata
  have hframe := ((txEmits_head hs hcursor).append hdata).append (txEmits_tail (if_pos rfl))
  simpa [frameEmissions, frameBody, hlen, hchk, TxUnit.emittedData] using hframe

end

/-- Settles O42: TX_BEGIN sets up the session of the frame, which the TX_NEXTs then emit. -/
theorem transmitterEmitsTheEncodedFrame : Obligations.TransmitterEmitsTheEncodedFrame := by
  intro s n p hbusy hcap hlen hp
  have htx := txBegin_of_packet hcap hlen hp
  have hframe : TxEmits s.cfg (txBegin s.cfg n s.tx) (frameEmissions s.cfg p) _ :=
    txEmits_frame (by rw [htx]) (by rw [htx]) (hlen ▸ hcap) (by rw [htx, hlen, BitVec.ofNat_toNat]) (by rw [htx])
      (by rw [txBegin_buf]; exact slice_eq_of_memRead hp)
  obtain ⟨os, t, hexec, hvalid, hbytes, ht⟩ := hframe.execAll_txNexts (s := s.afterBegin n) rfl rfl hbusy
  rw [frameEmissions_length, hlen] at hexec
  rw [frameEmissions_eq_zip, hlen] at hbytes
  exact ⟨_, os, t, execAll_cons_of_next (exec_txBegin_afterBegin n hbusy) hexec, rfl, hvalid, hbytes, by rw [ht]⟩

end Sys2Proof.Machine

/-! PROOFS. The ARQ controller (43_arq.md): its commands, its tick, and what a send puts on txo. -/

namespace Sys2Proof.Machine

/-! ### The commands as whole next states -/

theorem exec_arqSend_not_busy {n : Index} {s : State} (h : arqBusy s = false) :
    exec (.arqSend n) s = .next (((s.setTx (txBegin s.cfg n s.tx)).setArq
      (arqAfterSend (txBegin s.cfg n s.tx))).respond (arqstat (arqAfterSend (txBegin s.cfg n s.tx)))) := by
  rw [exec_arqSend, if_neg (ne_true_of_eq_false h)]

theorem arqAfterSend_of_error {tx : TxUnit} (h : tx.state = .error) :
    arqAfterSend tx = { state := .overflow, attempts := 0, timer := 0 } := by
  rw [arqAfterSend, if_pos h]

theorem arqAfterSend_of_ne_error {tx : TxUnit} (h : tx.state ≠ .error) :
    arqAfterSend tx = { state := .sending, attempts := 0, timer := 0 } := by
  rw [arqAfterSend, if_neg h]

theorem arqstat_cleared (st : ArqState) :
    arqstat { state := st, attempts := 0, timer := 0 } = st.code.setWidth 32 := by
  cases st <;> decide

/-- ARQ_SEND of a packet in TXBUF that the capacity admits (43_arq.md R182). -/
theorem exec_arqSend_of_packet {n : Index} {s : State} {p : List Byte} (hbusy : arqBusy s = false)
    (hcap : n.toNat ≤ s.cfg.maxPayload.toNat) (hlen : p.length = n.toNat)
    (hp : ∀ i (h : i < p.length), memRead .txbuf i s = some p[i]) :
    exec (.arqSend n) s = .next { s with
      tx := { state := .sendStx, err := .none, len := n.setWidth 8, cursor := 0x00, chk := frameChk s.cfg p,
              buf := s.tx.buf }
      arq := { state := .sending, attempts := 0, timer := 0 }
      out := Outputs.response 0x00000001 } := by
  rw [exec_arqSend_not_busy hbusy, txBegin_of_packet hcap hlen hp, arqAfterSend_of_ne_error (by simp), arqstat_cleared]
  rfl

/-- Settles O43: the state of the session that tx_begin leaves decides the controller's. -/
theorem arqSendBeginsOrOverflows : Obligations.ArqSendBeginsOrOverflows := by
  intro n s p hbusy
  refine ⟨fun hgt => ⟨_, ?_, rfl⟩, fun hcap hlen hp => ⟨_, exec_arqSend_of_packet hbusy hcap hlen hp, rfl⟩⟩
  rw [exec_arqSend_not_busy hbusy, txBegin_of_gt hgt, arqAfterSend_of_error rfl, arqstat_cleared]
  rfl

theorem acknowledge_ack {s : State} (hs : s.arq.state = .waitAck) :
    acknowledge s.cfg.ack s = s.setArq { s.arq with state := .acked } := by
  rw [acknowledge, if_pos hs, if_pos rfl]

theorem acknowledge_nak {s : State} (hs : s.arq.state = .waitAck) (hne : s.cfg.ack ≠ s.cfg.nak) :
    acknowledge s.cfg.nak s = nakEvent s := by
  rw [acknowledge, if_pos hs, if_neg hne.symm, if_pos rfl]

theorem acknowledge_discard {d : Byte} {s : State}
    (h : s.arq.state ≠ .waitAck ∨ (d ≠ s.cfg.ack ∧ d ≠ s.cfg.nak)) : acknowledge d s = s := by
  rcases acknowledge_cases d s with ⟨hs, hd, -⟩ | ⟨hs, -, hd, -⟩ | ⟨-, e⟩
  · exact (h.elim (· hs) fun hne => hne.1 hd).elim
  · exact (h.elim (· hs) fun hne => hne.2 hd).elim
  · exact e

/-- The retry step with a retry left: tx_begin finds the packet where the frame before it did (43_arq.md R183). -/
theorem nakEvent_of_retry {s : State} {p : List Byte} (hretry : s.arq.attempts.toNat + 1 < s.cfg.retryBudget.toNat)
    (hcap : s.tx.len.toNat ≤ s.cfg.maxPayload.toNat) (hlen : p.length = s.tx.len.toNat)
    (hp : ∀ i (h : i < p.length), memRead .txbuf i s = some p[i]) :
    nakEvent s = { s with
      tx := { state := .sendStx, err := .none, len := s.tx.len, cursor := 0x00, chk := frameChk s.cfg p,
              buf := s.tx.buf }
      arq := { s.arq with attempts := s.arq.attempts + 1, state := .sending } } := by
  have hlt : (s.arq.attempts + 1).toNat < s.cfg.retryBudget.toNat := by bv_omega
  have hn : (s.tx.len.setWidth 9).toNat = s.tx.len.toNat := by bv_omega
  have hback : (s.tx.len.setWidth 9).setWidth 8 = s.tx.len := by bv_omega
  have htx := txBegin_of_packet (n := s.tx.len.setWidth 9) (hn ▸ hcap) (hn ▸ hlen) hp
  rw [nakEvent, if_pos hlt, htx, hback]
  rfl

/-- The retry step on the last attempt: the transmitter is left alone (43_arq.md R183). -/
theorem nakEvent_of_exhausted {s : State} (hlast : s.arq.attempts.toNat + 1 = s.cfg.retryBudget.toNat) :
    nakEvent s = { s with arq := { s.arq with attempts := s.cfg.retryBudget, state := .exhausted } } := by
  have hbudget : s.arq.attempts + 1 = s.cfg.retryBudget := by bv_omega
  rw [nakEvent, hbudget, if_neg (lt_irrefl _)]
  rfl

theorem exec_ack_ack {s : State} (hs : s.arq.state = .waitAck) :
    exec (.ack s.cfg.ack) s = .next ((s.setArq { s.arq with state := .acked }).respond
      (arqstat { s.arq with state := .acked })) := by
  rw [exec_ack, acknowledge_ack hs]
  rfl

/-- Settles O44: ACK changes the controller's state alone, and a discarded byte leaves no more than the response. -/
theorem ackEndsTheWaitOrIsDiscarded : Obligations.AckEndsTheWaitOrIsDiscarded := by
  intro d s
  refine ⟨fun hs hd => ⟨_, hd ▸ exec_ack_ack hs, rfl⟩, fun h => ?_⟩
  rw [exec_ack, acknowledge_discard h]
  rfl

theorem exec_ack_nak {s : State} (hs : s.arq.state = .waitAck) (hne : s.cfg.ack ≠ s.cfg.nak) :
    exec (.ack s.cfg.nak) s = .next ((nakEvent s).respond (arqstat (nakEvent s).arq)) := by
  rw [exec_ack, acknowledge_nak hs hne]

/-- Settles O45: the NAK is the retry step, below the budget and at it. -/
theorem nakRetriesOrExhausts : Obligations.NakRetriesOrExhausts := by
  intro s p hs hne _ hcap hlen hp
  refine ⟨fun hretry => ⟨_, _, ?_, rfl, rfl⟩, fun hlast => ⟨_, ?_, rfl⟩⟩
  · rw [exec_ack_nak hs hne, nakEvent_of_retry hretry hcap hlen hp]
    rfl
  · rw [exec_ack_nak hs hne, nakEvent_of_exhausted hlast]
    rfl

/-- Settles O46: the abort resets the session exactly where `arqBusy_iff` finds the controller busy. -/
theorem arqAbortCancelsTheSend : Obligations.ArqAbortCancelsTheSend := by
  intro s
  refine ⟨_, exec_arqAbort s, ?_⟩
  simp only [arqBusy_iff]
  rfl

/-! ### The tick, state by state -/

theorem arqBusy_eq_false_iff (s : State) :
    arqBusy s = false ↔ s.arq.state ∈ [ArqState.idle, .acked, .exhausted, .overflow] := by
  unfold arqBusy
  cases s.arq.state <;> decide

theorem arqTick_of_not_busy {ready : Bool} {s : State} (h : arqBusy s = false) : arqTick ready s = .next s := by
  have hs : s.arq.state = .idle ∨ s.arq.state = .acked ∨ s.arq.state = .exhausted ∨ s.arq.state = .overflow := by
    simpa using (arqBusy_eq_false_iff s).mp h
  rcases hs with h | h | h | h <;> rw [arqTick, h]

theorem arqTick_sending {ready : Bool} {s : State} (hs : s.arq.state = .sending) :
    arqTick ready s = tickSending ready s := by
  rw [arqTick, hs]

theorem arqTick_waitAck {ready : Bool} {s : State} (hs : s.arq.state = .waitAck) :
    arqTick ready s = .next (tickWaitAck s) := by
  rw [arqTick, hs]

theorem tickSending_not_ready (s : State) : tickSending false s = .next s := rfl

theorem tickSending_ok {s : State} {tx : TxUnit} {e : Option Emission} (hnext : txNext s.cfg s.tx = .ok (tx, e)) :
    tickSending true s = .next (((s.setTx tx).setArq (arqAfterEmission s.arq e)).emitAfterCommand e) := by
  rw [tickSending, if_pos rfl, hnext]

theorem tickSending_error {s : State} {f : Fault} (hnext : txNext s.cfg s.tx = .error f) :
    tickSending true s = .fault f := by
  rw [tickSending, if_pos rfl, hnext]

/-- A byte that the tick finds ready, in a cycle whose command has left txo free, is put there (43_arq.md R189). -/
theorem arqTick_emission {s : State} {tx : TxUnit} {e : Emission} (hs : s.arq.state = .sending)
    (hfree : s.out.txoValid = false) (hnext : txNext s.cfg s.tx = .ok (tx, some e)) :
    arqTick true s = .next (((s.setTx tx).setArq (arqAfterEmission s.arq (some e))).emit (some e)) := by
  rw [arqTick_sending hs, tickSending_ok hnext, State.emitAfterCommand]
  exact congrArg _ (if_neg (ne_true_of_eq_false hfree))

theorem txNext_midFrame_emits {c : Config} {tx tx' : TxUnit} {e : Option Emission}
    (hnext : txNext c tx = .ok (tx', e)) (hmid : tx.state.midFrame = true) : ∃ x, e = some x := by
  rcases txNext_cases hnext with ⟨-, -, he⟩ | ⟨-, -, he⟩ | ⟨-, -, -, he⟩ | ⟨-, -, he⟩ | ⟨-, -, he⟩ | ⟨hrest, -, -⟩
  case inr.inr.inr.inr.inr => rcases hrest with h | h | h <;> rw [h] at hmid <;> cases hmid
  all_goals exact ⟨_, he⟩

/-- Settles O47: TX_NEXT of the idle controller and the tick make the same call of tx_next. -/
theorem tickInSendingEmitsTheNextByte : Obligations.TickInSendingEmitsTheNextByte := by
  refine fun s hs => ⟨(arqTick_sending hs).trans (tickSending_not_ready s), fun u hmid hfree hu => ?_⟩
  cases hnext : txNext s.cfg s.tx with
  | error f => cases hu.symm.trans (exec_txNext_error rfl hnext)
  | ok r =>
    obtain ⟨tx, e⟩ := r
    obtain ⟨x, rfl⟩ := txNext_midFrame_emits hnext hmid
    cases hu.symm.trans (exec_txNext_ok rfl hnext)
    exact arqTick_emission hs hfree hnext

theorem tickWaitAck_no_timeout {s : State} (h0 : s.cfg.ackTimeout = 0) : tickWaitAck s = s := by
  rw [tickWaitAck, if_pos h0]

theorem tickWaitAck_before {s : State} (h : s.arq.timer.toNat + 1 < s.cfg.ackTimeout.toNat) :
    tickWaitAck s = s.setArq { s.arq with timer := s.arq.timer + 1 } := by
  rw [tickWaitAck, if_neg (by bv_omega), if_neg (by bv_omega)]

theorem tickWaitAck_timeout {s : State} (h : s.arq.timer.toNat + 1 = s.cfg.ackTimeout.toNat) :
    tickWaitAck s = nakEvent (s.setArq { s.arq with timer := s.cfg.ackTimeout }) := by
  have htimer : s.arq.timer + 1 = s.cfg.ackTimeout := by bv_omega
  rw [tickWaitAck, if_neg (by bv_omega), if_pos htimer, htimer]

/-- Settles O48: the count, and at the timeout the retry step of O45 on the timer that has reached it. -/
theorem tickInWaitAckCountsToTheTimeout : Obligations.TickInWaitAckCountsToTheTimeout := by
  intro s p ready hs
  rw [arqTick_waitAck hs]
  refine ⟨fun h0 => ?_, fun hbefore => ?_, fun htimeout hretry hcap hlen hp => ?_, fun htimeout hlast => ?_⟩
  · rw [tickWaitAck_no_timeout h0]
  · rw [tickWaitAck_before hbefore]
    rfl
  · rw [tickWaitAck_timeout htimeout]
    exact congrArg _ (nakEvent_of_retry (s := s.setArq { s.arq with timer := s.cfg.ackTimeout }) hretry hcap hlen hp)
  · rw [tickWaitAck_timeout htimeout]
    exact congrArg _ (nakEvent_of_exhausted (s := s.setArq { s.arq with timer := s.cfg.ackTimeout }) hlast)

/-! ### The receiver and the accumulator have no part in the tick -/

/-- The state with another receiver and another accumulator. -/
def State.withRxChk (s : State) (rx : RxUnit) (acc : Byte) : State := { s with rx := rx, chkAcc := acc }

section

variable (s : State) (rx : RxUnit) (acc : Byte)

theorem nakEvent_withRxChk : nakEvent (s.withRxChk rx acc) = (nakEvent s).withRxChk rx acc := by
  unfold nakEvent
  rw [apply_ite (fun t : State => t.withRxChk rx acc)]
  rfl

theorem tickWaitAck_withRxChk : tickWaitAck (s.withRxChk rx acc) = (tickWaitAck s).withRxChk rx acc := by
  unfold tickWaitAck
  rw [apply_ite (fun t : State => t.withRxChk rx acc), apply_ite (fun t : State => t.withRxChk rx acc),
    ← nakEvent_withRxChk]
  rfl

theorem State.emitAfterCommand_withRxChk (e : Option Emission) :
    (s.withRxChk rx acc).emitAfterCommand e = (s.emitAfterCommand e).withRxChk rx acc := by
  unfold State.emitAfterCommand
  rw [apply_ite (fun t : State => t.withRxChk rx acc)]
  rfl

theorem tickSending_withRxChk (ready : Bool) :
    tickSending ready (s.withRxChk rx acc) = onNext (·.withRxChk rx acc) (tickSending ready s) := by
  cases ready with
  | false => rfl
  | true =>
    cases hnext : txNext s.cfg s.tx with
    | ok r =>
      rw [tickSending_ok (s := s.withRxChk rx acc) hnext, tickSending_ok hnext]
      have hemit := State.emitAfterCommand_withRxChk ((s.setTx r.1).setArq (arqAfterEmission s.arq r.2)) rx acc r.2
      exact congrArg _ hemit
    | error f => rw [tickSending_error (s := s.withRxChk rx acc) hnext, tickSending_error hnext, onNext_fault]

theorem arqTick_withRxChk (ready : Bool) :
    arqTick ready (s.withRxChk rx acc) = onNext (·.withRxChk rx acc) (arqTick ready s) := by
  cases hbusy : arqBusy s with
  | false => rw [arqTick_of_not_busy (s := s.withRxChk rx acc) hbusy, arqTick_of_not_busy hbusy, onNext_next]
  | true =>
    rcases (arqBusy_iff s).mp hbusy with hs | hs
    · rw [arqTick_sending (s := s.withRxChk rx acc) hs, arqTick_sending hs, tickSending_withRxChk]
    · rw [arqTick_waitAck (s := s.withRxChk rx acc) hs, arqTick_waitAck hs, tickWaitAck_withRxChk, onNext_next]

end

/-- Settles O49: the tick commutes with another receiver and accumulator, and `arqTick_frame` keeps both. -/
theorem tickOutsideASendDoesNothing : Obligations.TickOutsideASendDoesNothing :=
  ⟨fun _ s hs => arqTick_of_not_busy ((arqBusy_eq_false_iff s).mpr hs), fun ready s _ rx acc ht =>
    ⟨arqTick_rx ht, arqTick_chkAcc ht, (arqTick_withRxChk s rx acc ready).trans (congrArg _ ht)⟩⟩

/-! ### Runs of cycles -/

theorem cycles_cons_of_next {k : Nat} {s t u : State} {os : List Outputs} (hstep : step s = .next t)
    (hrest : cycles k t = some (os, u)) : cycles (k + 1) s = some (t.out :: os, u) := by
  simp [cycles, hstep, hrest]

theorem cycles_append {j k : Nat} {s t u : State} {os os' : List Outputs} (hfirst : cycles j s = some (os, t))
    (hrest : cycles k t = some (os', u)) : cycles (j + k) s = some (os ++ os', u) := by
  induction j generalizing s os with
  | zero =>
    cases hfirst
    simpa using hrest
  | succ j ih =>
    rw [cycles] at hfirst
    cases hstep : step s with
    | fault f => rw [hstep] at hfirst; cases hfirst
    | refused r => rw [hstep] at hfirst; cases hfirst
    | next s' =>
      rw [hstep] at hfirst
      obtain ⟨⟨os₁, t₁⟩, hcycles, heq⟩ := Option.map_eq_some_iff.mp hfirst
      cases heq
      rw [Nat.succ_add]
      exact cycles_cons_of_next hstep (ih hcycles)

theorem txoTrace_append (os os' : List Outputs) : txoTrace (os ++ os') = txoTrace os ++ txoTrace os' := by
  induction os with
  | nil => rfl
  | cons o os ih =>
    rw [List.cons_append, txoTrace, txoTrace, ih]
    split <;> rfl

/-- What txo shows in a cycle that emits `e`. -/
def Emission.txo (e : Emission) : Bool × Byte × Bool := (true, e.data, e.final)

/-- The cycles of the outputs `os` emit one byte each; `es` is what they emit. -/
def CarriesOnTxo (os : List Outputs) (es : List Emission) : Prop := os.map Outputs.txo = es.map Emission.txo

theorem CarriesOnTxo.cons {o : Outputs} {os : List Outputs} {e : Emission} {es : List Emission} (ho : o.txo = e.txo)
    (h : CarriesOnTxo os es) : CarriesOnTxo (o :: os) (e :: es) :=
  congrArg₂ List.cons ho h

theorem CarriesOnTxo.txoValid {os : List Outputs} {es : List Emission} (h : CarriesOnTxo os es) :
    ∀ o ∈ os, o.txoValid = true := by
  intro o ho
  obtain ⟨e, -, he⟩ := List.mem_map.mp (h ▸ List.mem_map_of_mem ho : o.txo ∈ es.map Emission.txo)
  exact (congrArg Prod.fst he).symm

theorem CarriesOnTxo.bytes {os : List Outputs} {es : List Emission} (h : CarriesOnTxo os es) :
    os.map (fun o => (o.txoData, o.txoFinal)) = es.map (fun e => (e.data, e.final)) := by
  simpa [Outputs.txo, Emission.txo, Function.comp_def] using congrArg (List.map Prod.snd) h

theorem txoTrace_eq_map {os : List Outputs} (h : ∀ o ∈ os, o.txoValid = true) :
    txoTrace os = os.map fun o => (o.txoData, o.txoFinal) := by
  induction os with
  | nil => rfl
  | cons o os ih =>
    obtain ⟨ho, hos⟩ := List.forall_mem_cons.mp h
    rw [txoTrace, if_pos ho, ih hos, List.map_cons]

/-! ### The frame of a send, one byte a cycle -/

theorem step_of_idleCycle {s : State} {l : List CycleInput} (hwf : s.cfg.wf = true)
    (hinputs : s.inputs = CycleInput.idle :: l) : step s = arqTick true s.startCycle := by
  have hport := State.port_cons hinputs
  rw [step_of_idle hwf (by rw [hport]; rfl) (by rw [hport]; rfl), hport]
  rfl

theorem step_of_commandCycle {i : Instr} {s u : State} {l : List CycleInput} (hwf : s.cfg.wf = true)
    (hi : i.wf = true) (hinputs : s.inputs = commandCycle i :: l) (hexec : exec i s.startCycle = .next u) :
    step s = arqTick true u := by
  have hport := State.port_cons hinputs
  have hdecode : decode s.port.cmd = .command i := by rw [hport]; exact encodedCommandDecodesToItself i hi
  rw [step_of_command hwf (by rw [hport]; rfl) (by rw [hport]; rfl) hdecode, hexec, hport]
  rfl

/-- `t` is what the cycles of a frame leave of the state `u` that began it: the session `tx`, the wait for the
acknowledgement, and the inputs `rest` not yet taken. -/
structure FrameSent (u : State) (tx : TxUnit) (rest : List CycleInput) (t : State) : Prop where
  cfg : t.cfg = u.cfg
  tx : t.tx = tx
  arq : t.arq = { u.arq with state := .waitAck, timer := 0 }
  inputs : t.inputs = rest

/-- From SENDING, the cycle that has come to its tick and an idle cycle for each byte after the first emit all bytes of
a frame; the final one ends the sending (43_arq.md R188, R189). -/
theorem TxEmits.cycles_frame {bs : List Byte} {b : Byte} {s u : State} {tx : TxUnit} {rest : List CycleInput}
    (hemits : TxEmits u.cfg u.tx (bs.map Emission.inner ++ [{ data := b, final := true }]) tx)
    (hwf : u.cfg.wf = true) (hstep : step s = arqTick true u) (hs : u.arq.state = .sending)
    (hfree : u.out.txoValid = false) (hinputs : u.inputs = List.replicate bs.length CycleInput.idle ++ rest) :
    ∃ os t, cycles (bs.length + 1) s = some (os, t) ∧
      CarriesOnTxo os (bs.map Emission.inner ++ [{ data := b, final := true }]) ∧ FrameSent u tx rest t := by
  induction bs generalizing s u with
  | nil =>
    obtain _ | ⟨hnext, _ | _⟩ := hemits
    exact ⟨_, _, cycles_cons_of_next (hstep.trans (arqTick_emission hs hfree hnext)) rfl, rfl, rfl, rfl, rfl, hinputs⟩
  | cons b' bs ih =>
    obtain _ | @⟨_, tx₁, _, _, _, hnext, hrest⟩ := hemits
    have hfirst : step s = .next ((u.setTx tx₁).emit (some (.inner b'))) :=
      hstep.trans (arqTick_emission hs hfree hnext)
    obtain ⟨os, t, hcycles, hos, hcfg, htx, harq, hinputs'⟩ :=
      ih (u := ((u.setTx tx₁).emit (some (.inner b'))).startCycle) hrest hwf (step_of_idleCycle hwf hinputs) hs rfl
        (congrArg List.tail hinputs)
    exact ⟨_, t, cycles_cons_of_next hfirst hcycles, hos.cons rfl, hcfg, htx, harq, hinputs'⟩

/-- The packet `p`, which the capacity admits, is in TXBUF of an engine with the configuration `c`. -/
structure HoldsPacket (c : Config) (p : List Byte) (s : State) : Prop where
  cfg : s.cfg = c
  cap : p.length ≤ c.maxPayload.toNat
  bytes : ∀ i (h : i < p.length), memRead .txbuf i s = some p[i]

theorem HoldsPacket.congr {c : Config} {p : List Byte} {s t : State} (h : HoldsPacket c p s) (hcfg : t.cfg = s.cfg)
    (hbuf : t.tx.buf = s.tx.buf) : HoldsPacket c p t where
  cfg := hcfg.trans h.cfg
  cap := h.cap
  bytes i hi := (memRead_congr hcfg (congrArg (Memory.byteAt .txbuf · i) hbuf)).trans (h.bytes i hi)

/-- A cycle has come to its tick with the frame of `p` begun and none of its bytes emitted; `a` attempts are counted and
the inputs `l` are to come. -/
structure FrameBegun (c : Config) (p : List Byte) (a : Nat) (l : List CycleInput) (u : State) : Prop
    extends HoldsPacket c p u where
  sending : u.arq.state = .sending
  attempts : u.arq.attempts.toNat = a
  free : u.out.txoValid = false
  session : u.tx = { state := .sendStx, err := .none, len := BitVec.ofNat 8 p.length, cursor := 0x00,
                     chk := frameChk c p, buf := u.tx.buf }
  inputs : u.inputs = l

/-- The controller waits for the acknowledgement of the frame of `p`; `a` attempts are counted and the inputs `l` are to
come. -/
structure AwaitsAck (c : Config) (p : List Byte) (a : Nat) (l : List CycleInput) (s : State) : Prop
    extends HoldsPacket c p s where
  waitAck : s.arq.state = .waitAck
  attempts : s.arq.attempts.toNat = a
  len : s.tx.len = BitVec.ofNat 8 p.length
  inputs : s.inputs = l

section

variable {c : Config} {p : List Byte} {a : Nat} {rest : List CycleInput}

theorem FrameBegun.txEmits {u : State} (h : FrameBegun c p a rest u) :
    TxEmits c u.tx (frameEmissions c p) { u.tx with cursor := u.tx.len, state := .done } :=
  txEmits_frame (by rw [h.session]) (by rw [h.session]) h.cap (by rw [h.session]) (by rw [h.session])
    (slice_eq_of_memRead h.bytes)

/-- A frame that is begun goes out in full, and then the controller waits (43_arq.md R188). -/
theorem FrameBegun.cycles_frame {s u : State}
    (h : FrameBegun c p a (List.replicate (p.length + 3) CycleInput.idle ++ rest) u) (hwf : c.wf = true)
    (hstep : step s = arqTick true u) :
    ∃ os t, cycles (p.length + 4) s = some (os, t) ∧ CarriesOnTxo os (frameEmissions c p) ∧ AwaitsAck c p a rest t := by
  have hlen : (frameBody c p ++ [frameChk c p]).length = p.length + 3 := by simp
  have hemits := h.txEmits
  rw [← h.cfg] at hemits hwf
  obtain ⟨os, t, hcycles, hos, hsent⟩ :=
    hemits.cycles_frame (bs := frameBody u.cfg p ++ [frameChk u.cfg p]) hwf hstep h.sending h.free (by
      rw [h.cfg, hlen, h.inputs])
  rw [h.cfg] at hcycles hos
  rw [hlen] at hcycles
  refine ⟨os, t, hcycles, hos, h.toHoldsPacket.congr hsent.cfg (by rw [hsent.tx]), ?_, ?_, ?_, hsent.inputs⟩
  · rw [hsent.arq]
  · rw [hsent.arq, ← h.attempts]
  · rw [hsent.tx, h.session]

theorem exists_frameBegun_of_arqSend {s : State} {n : Index} (h : HoldsPacket c p s) (hwf : c.wf = true)
    (hbusy : arqBusy s = false) (hlen : p.length = n.toNat) (hinputs : s.inputs = commandCycle (.arqSend n) :: rest) :
    ∃ u, step s = arqTick true u ∧ FrameBegun c p 0 rest u := by
  obtain ⟨rfl, hcap, hbytes⟩ := h
  have hexec := exec_arqSend_of_packet (s := s.startCycle) hbusy (hlen ▸ hcap) hlen hbytes
  refine ⟨_, step_of_commandCycle hwf rfl hinputs hexec, ⟨rfl, hcap, hbytes⟩, rfl, rfl, rfl, ?_,
    congrArg List.tail hinputs⟩
  rw [hlen, BitVec.ofNat_toNat]
  rfl

theorem ack_ne_nak_of_wf (hwf : c.wf = true) : c.ack ≠ c.nak := by
  simp only [Config.wf, Bool.and_eq_true, decide_eq_true_eq] at hwf
  obtain ⟨⟨-, hne⟩, -⟩ := hwf
  exact hne

theorem AwaitsAck.exists_frameBegun_of_nak {s : State} (h : AwaitsAck c p a (commandCycle (.ack c.nak) :: rest) s)
    (hwf : c.wf = true) (hretry : a + 1 < c.retryBudget.toNat) :
    ∃ u, step s = arqTick true u ∧ FrameBegun c p (a + 1) rest u := by
  obtain ⟨⟨rfl, hcap, hbytes⟩, hs, rfl, hlen, hinputs⟩ := h
  have hn : s.tx.len.toNat = p.length := by rw [hlen, toNat_ofNat_length hcap]
  have hnak := nakEvent_of_retry (s := s.startCycle) hretry (hn.trans_le hcap) hn.symm hbytes
  have hexec := exec_ack_nak (s := s.startCycle) hs (ack_ne_nak_of_wf hwf)
  rw [hnak] at hexec
  refine ⟨_, step_of_commandCycle hwf rfl hinputs hexec, ⟨rfl, hcap, hbytes⟩, rfl, ?_, rfl, ?_,
    congrArg List.tail hinputs⟩
  · show (s.arq.attempts + 1).toNat = _
    bv_omega
  · rw [← hlen]
    rfl

/-! ### A send, its retries and its end -/

/-- The `k` cycles from `s` end in `t`, and `bytes` are the bytes that they put on txo. -/
def Sends (k : Nat) (s : State) (bytes : List Byte) (t : State) : Prop :=
  ∃ os, cycles k s = some (os, t) ∧ (txoTrace os).map Prod.fst = bytes

theorem Sends.zero (s : State) : Sends 0 s [] s := ⟨[], rfl, rfl⟩

theorem Sends.append {j k : Nat} {s t u : State} {bs bs' : List Byte} (h : Sends j s bs t) (h' : Sends k t bs' u) :
    Sends (j + k) s (bs ++ bs') u := by
  obtain ⟨os, hcycles, rfl⟩ := h
  obtain ⟨os', hcycles', rfl⟩ := h'
  exact ⟨os ++ os', cycles_append hcycles hcycles', by rw [txoTrace_append, List.map_append]⟩

/-- A cycle whose tick finds the controller not busy emits nothing of its own. -/
theorem Sends.of_not_busy {s u : State} (hstep : step s = arqTick true u) (hbusy : arqBusy u = false)
    (hfree : u.out.txoValid = false) : Sends 1 s [] u :=
  ⟨[u.out], cycles_cons_of_next (hstep.trans (arqTick_of_not_busy hbusy)) rfl, by simp [txoTrace, hfree]⟩

theorem frameEmissions_data (c : Config) (p : List Byte) :
    (frameEmissions c p).map Emission.data = encodeFrame c p := by
  simp [frameEmissions, encodeFrame_eq_frameBody, Emission.inner, Function.comp_def]

theorem CarriesOnTxo.txoTrace_data {os : List Outputs} (h : CarriesOnTxo os (frameEmissions c p)) :
    (txoTrace os).map Prod.fst = encodeFrame c p := by
  rw [txoTrace_eq_map h.txoValid, h.bytes, List.map_map, ← frameEmissions_data]
  rfl

/-- The inputs of a frame: the command that begins it, and an idle cycle for each byte after the first. -/
def frameTape (i : Instr) (n : Nat) : List CycleInput := commandCycle i :: List.replicate (n + 3) CycleInput.idle

@[simp] theorem frameTape_length (i : Instr) (n : Nat) : (frameTape i n).length = n + 4 := by
  simp [frameTape]

theorem FrameBegun.sends {s u : State} (h : FrameBegun c p a (List.replicate (p.length + 3) CycleInput.idle ++ rest) u)
    (hwf : c.wf = true) (hstep : step s = arqTick true u) :
    ∃ t, Sends (p.length + 4) s (encodeFrame c p) t ∧ AwaitsAck c p a rest t := by
  obtain ⟨os, t, hcycles, hos, ht⟩ := h.cycles_frame hwf hstep
  exact ⟨t, ⟨os, hcycles, hos.txoTrace_data⟩, ht⟩

/-- The inputs of `k` retries of a frame of `n` bytes. -/
def retryTape (c : Config) (n k : Nat) : List CycleInput := (List.replicate k (frameTape (.ack c.nak) n)).flatten

/-- Each NAK below the budget puts the frame on txo once more (43_arq.md R186). -/
theorem AwaitsAck.sends_retries {k : Nat} {s : State} (h : AwaitsAck c p a (retryTape c p.length k ++ rest) s)
    (hwf : c.wf = true) (hbudget : a + k < c.retryBudget.toNat) :
    ∃ t, Sends (retryTape c p.length k).length s (List.replicate k (encodeFrame c p)).flatten t ∧
      AwaitsAck c p (a + k) rest t := by
  induction k generalizing a s with
  | zero => exact ⟨s, Sends.zero s, h⟩
  | succ k ih =>
    have htape : retryTape c p.length (k + 1) = frameTape (.ack c.nak) p.length ++ retryTape c p.length k := by
      simp [retryTape, List.replicate_succ]
    rw [htape, List.append_assoc] at h
    obtain ⟨u, hstep, hu⟩ := h.exists_frameBegun_of_nak hwf (by omega)
    obtain ⟨s', hframe, hs'⟩ := hu.sends hwf hstep
    obtain ⟨t, hretries, ht⟩ := ih hs' (by omega)
    rw [htape, List.length_append, frameTape_length, List.replicate_succ, List.flatten_cons]
    exact ⟨t, hframe.append hretries, by rwa [Nat.add_right_comm] at ht⟩

/-- ACK ends the send with the attempts it has counted (43_arq.md R184). -/
theorem AwaitsAck.sends_ack {s : State} (h : AwaitsAck c p a [commandCycle (.ack c.ack)] s) (hwf : c.wf = true) :
    ∃ t, Sends 1 s [] t ∧ t.arq.state = .acked ∧ t.arq.attempts.toNat = a := by
  obtain ⟨⟨rfl, -, -⟩, hs, rfl, -, hinputs⟩ := h
  have hexec := exec_ack_ack (s := s.startCycle) hs
  exact ⟨_, .of_not_busy (step_of_commandCycle hwf rfl hinputs hexec) rfl rfl, rfl, rfl⟩

/-- The NAK that reaches the budget ends the send (43_arq.md R187). -/
theorem AwaitsAck.sends_last_nak {s : State} (h : AwaitsAck c p a [commandCycle (.ack c.nak)] s) (hwf : c.wf = true)
    (hlast : a + 1 = c.retryBudget.toNat) :
    ∃ t, Sends 1 s [] t ∧ t.arq.state = .exhausted ∧ t.arq.attempts = c.retryBudget := by
  obtain ⟨⟨rfl, -, -⟩, hs, rfl, -, hinputs⟩ := h
  have hexec := exec_ack_nak (s := s.startCycle) hs (ack_ne_nak_of_wf hwf)
  rw [nakEvent_of_exhausted (s := s.startCycle) hlast] at hexec
  exact ⟨_, .of_not_busy (step_of_commandCycle hwf rfl hinputs hexec) rfl rfl, rfl, rfl⟩

theorem AwaitsAck.sends_last {s : State} {last : Byte} (h : AwaitsAck c p a [commandCycle (.ack last)] s)
    (hwf : c.wf = true) (hlast : last = c.ack ∨ (last = c.nak ∧ a + 1 = c.retryBudget.toNat)) :
    ∃ t, Sends 1 s [] t ∧ (last = c.ack → t.arq.state = .acked ∧ t.arq.attempts.toNat = a) ∧
      (last = c.nak → t.arq.state = .exhausted ∧ t.arq.attempts = c.retryBudget) := by
  have hne := ack_ne_nak_of_wf hwf
  rcases hlast with rfl | ⟨rfl, hbudget⟩
  · obtain ⟨t, hsends, ht⟩ := h.sends_ack hwf
    exact ⟨t, hsends, fun _ => ht, fun hnak => absurd hnak hne⟩
  · obtain ⟨t, hsends, ht⟩ := h.sends_last_nak hwf hbudget
    exact ⟨t, hsends, fun hack => absurd hack.symm hne, fun _ => ht⟩

end

/-- Settles O50: ARQ_SEND begins the frame of the packet, and its own tick is the first of the cycles that emit it. -/
theorem arqSendEmitsTheFrameInFrameTime : Obligations.ArqSendEmitsTheFrameInFrameTime := by
  intro s n p rest hwf hbusy hcap hlen hbytes hinputs
  obtain ⟨u, hstep, hu⟩ := exists_frameBegun_of_arqSend ⟨rfl, hlen ▸ hcap, hbytes⟩ hwf hbusy hlen hinputs
  rw [← hlen] at hu ⊢
  obtain ⟨os, t, hcycles, hos, ht⟩ := hu.cycles_frame hwf hstep
  exact ⟨os, t, hcycles, hos.txoValid, hos.bytes.trans (frameEmissions_eq_zip s.cfg p), ht.waitAck, ht.inputs⟩

/-- Settles O51: the frame of the send, one frame for each retry, and the cycle of the last answer. -/
theorem retryBoundUnderArq : Obligations.RetryBoundUnderArq := by
  intro s n p k last hwf _ hbusy hcap hlen hbytes hk hlast hinputs
  rw [← hlen] at hinputs
  have htape : s.inputs =
      frameTape (.arqSend n) p.length ++ (retryTape s.cfg p.length k ++ [commandCycle (.ack last)]) := by
    rw [hinputs, List.append_assoc]
    rfl
  obtain ⟨u, hstep, hu⟩ := exists_frameBegun_of_arqSend ⟨rfl, hlen ▸ hcap, hbytes⟩ hwf hbusy hlen htape
  obtain ⟨s₁, hfirst, hs₁⟩ := hu.sends hwf hstep
  obtain ⟨s₂, hretries, hs₂⟩ := hs₁.sends_retries hwf (by omega)
  rw [Nat.zero_add] at hs₂
  obtain ⟨t, hend, hack, hnak⟩ := hs₂.sends_last hwf hlast
  obtain ⟨os, hcycles, htrace⟩ := hfirst.append (hretries.append hend)
  refine ⟨os, t, ?_, ?_, hack, hnak⟩
  · rw [htape, List.length_append, List.length_append, frameTape_length]
    exact hcycles
  · rw [htrace, List.append_nil, List.replicate_succ, List.flatten_cons]

end Sys2Proof.Machine

/-! PROOFS. The system (44_system.md): the cycle around its command, which commands are illegal in which states, and
what each family of commands may write and emit. -/

namespace Sys2Proof.Machine

/-! ### The cycle around its command -/

theorem State.startCycle_of_inputs {s : State} {c : CycleInput} {rest : List CycleInput} (h : s.inputs = c :: rest) :
    s.startCycle = { s with inputs := rest, out := Outputs.zero } := by
  rw [State.startCycle, h]
  rfl

/-- Settles O6: the cycle's ports are the head of the tape, and its end is `finishCycle` written out. -/
theorem stepRunsTheDecodedCommand : Obligations.StepRunsTheDecodedCommand := by
  intro s c rest i hwf hinputs hrst hvalid hdecode
  have hport := State.port_cons hinputs
  rw [step_of_command hwf (hport ▸ hrst) (hport ▸ hvalid) (hport ▸ hdecode), hport,
    State.startCycle_of_inputs hinputs]
  rfl

/-- Settles O7: the illegal word is `raiseIllegal` on the state that the cycle starts with, and then the tick. -/
theorem stepOnAnIllegalWordOnlySetsIll : Obligations.StepOnAnIllegalWordOnlySetsIll := by
  intro s c rest e hwf hinputs hrst hvalid hdecode
  have hport := State.port_cons hinputs
  rw [step_of_illegal hwf (hport ▸ hrst) (hport ▸ hvalid) (hport ▸ hdecode), hport,
    State.startCycle_of_inputs hinputs]
  rfl

/-- Settles O8: with no command, the tick runs on the state that the cycle starts with. -/
theorem stepOfAnIdleCycleIsTheTick : Obligations.StepOfAnIdleCycleIsTheTick := by
  intro s c rest hwf hinputs hrst hvalid
  have hport := State.port_cons hinputs
  rw [step_of_idle hwf (hport ▸ hrst) (hport ▸ hvalid), hport, State.startCycle_of_inputs hinputs]

/-- Settles O12: the two equations of the commands, written out as whole next states. -/
theorem nopAndClrIllAnswerZero : Obligations.NopAndClrIllAnswerZero := fun s => ⟨exec_nop s, exec_clrIll s⟩

/-! ### Which commands are illegal in which states -/

/-- The commands that are illegal in a state (44_system.md R214), READ of a register that does not exist (R211), and
the reserved operation (30_encoding.md R77). -/
def illegalIn (s : State) : Instr → Bool
  | .txLoad a _ => loadIllegal a s
  | .txBegin _ => arqBusy s
  | .txNext => arqBusy s
  | .txReset => arqBusy s
  | .arqSend _ => arqBusy s
  | .read d => decide (7 < d.toNat)
  | .reserved _ => true
  | _ => false

theorem midFrame_eq_true_iff (st : TxState) :
    st.midFrame = true ↔ st ∈ [TxState.sendStx, .sendLen, .sendData, .sendChk, .sendEtx] := by
  cases st <;> decide

theorem loadIllegal_iff (a : Index) (s : State) :
    loadIllegal a s = true ↔ (s.arq.state = .sending ∨ s.arq.state = .waitAck) ∨
      s.tx.state ∈ [TxState.sendStx, .sendLen, .sendData, .sendChk, .sendEtx] ∨
      s.cfg.maxPayload.toNat ≤ a.toNat := by
  rw [← arqBusy_iff, ← midFrame_eq_true_iff, loadIllegal, Bool.or_eq_true, Bool.or_eq_true, decide_eq_true_eq, or_assoc]

/-- `illegalIn` is the table of 44_system.md R214, with the two operands that are illegal in every state. -/
theorem illegalIn_iff (i : Instr) (s : State) :
    illegalIn s i = true ↔
      ((s.arq.state = .sending ∨ s.arq.state = .waitAck) ∧
        ((∃ a d, i = .txLoad a d) ∨ (∃ a, i = .txBegin a) ∨ i = .txNext ∨ i = .txReset ∨ ∃ a, i = .arqSend a)) ∨
      (∃ a d, i = .txLoad a d ∧
        (s.tx.state ∈ [TxState.sendStx, .sendLen, .sendData, .sendChk, .sendEtx] ∨
          s.cfg.maxPayload.toNat ≤ a.toNat)) ∨
      (∃ d, i = .read d ∧ 7 < d.toNat) ∨
      ∃ x, i = .reserved x := by
  cases i with
  | txLoad a d =>
    show loadIllegal a s = true ↔ _
    simpa using loadIllegal_iff a s
  | txBegin a =>
    show arqBusy s = true ↔ _
    simp [arqBusy_iff]
  | txNext =>
    show arqBusy s = true ↔ _
    simp [arqBusy_iff]
  | txReset =>
    show arqBusy s = true ↔ _
    simp [arqBusy_iff]
  | arqSend a =>
    show arqBusy s = true ↔ _
    simp [arqBusy_iff]
  | read d =>
    show decide (7 < d.toNat) = true ↔ _
    simp
  | reserved x =>
    show true = true ↔ _
    simp
  | _ =>
    show false = true ↔ _
    simp

theorem exec_of_illegalIn {i : Instr} {s : State} (h : illegalIn s i = true) :
    exec i s = .next (raiseIllegal s) := by
  cases i with
  | txLoad a d => exact exec_txLoad_illegal h
  | txBegin a => exact (exec_txBegin a s).trans (congrArg _ (if_pos h))
  | txNext => exact exec_txNext_busy h
  | txReset => exact exec_txReset_busy h
  | arqSend a => exact (exec_arqSend a s).trans (congrArg _ (if_pos h))
  | read d => exact exec_read_of_gt (of_decide_eq_true h)
  | reserved x => exact exec_reserved x s
  | _ => cases h

/-- Settles O14: each listed case is one of `illegalIn_iff`, and an illegal command is `raiseIllegal`. -/
theorem illegalCommandsWriteOnlyIll : Obligations.IllegalCommandsWriteOnlyIll := by
  intro i s h
  refine exec_of_illegalIn ((illegalIn_iff i s).mpr ?_)
  rcases h with hbusy | hload | hread
  · exact .inl hbusy
  · exact .inr (.inl hload)
  · exact .inr (.inr (.inl hread))

/-! ### What a legal command writes and emits -/

/-- The TX and ARQ commands, and ACK: the only ones that may write the TX fields (44_system.md R219). -/
def drivesTx : Instr → Bool
  | .txLoad _ _ => true
  | .txBegin _ => true
  | .txNext => true
  | .txReset => true
  | .arqSend _ => true
  | .ack _ => true
  | .arqAbort => true
  | _ => false

/-- The ARQ commands, and ACK: the only ones that may write the ARQ fields (44_system.md R219). -/
def drivesArq : Instr → Bool
  | .arqSend _ => true
  | .ack _ => true
  | .arqAbort => true
  | _ => false

/-- What a legal command that took `s` to `t` answered, and what it left alone. With `OwnedFieldsAfter` and `exec_cfg`
this speaks of every field. -/
structure LegalAnswer (i : Instr) (s t : State) : Prop where
  respValid : t.out.respValid = true
  respIll : t.out.respIll = false
  txo : t.out.txoValid = true → i = .txNext
  inputs : t.inputs = s.inputs
  ill : i ≠ .clrIll → t.ill = s.ill
  tx : drivesTx i = false → t.tx = s.tx
  arq : drivesArq i = false → t.arq = s.arq

@[simp] theorem nakEvent_inputs (s : State) : (nakEvent s).inputs = s.inputs := by
  rcases nakEvent_cases s with ⟨-, e⟩ | ⟨-, e⟩ <;> simp [e]

@[simp] theorem acknowledge_inputs (d : Byte) (s : State) : (acknowledge d s).inputs = s.inputs := by
  rcases acknowledge_cases d s with ⟨-, -, e⟩ | ⟨-, -, -, e⟩ | ⟨-, e⟩ <;> simp [e]

/-- A command that ends in a response emits nothing: what is left to say is what it wrote before. -/
theorem LegalAnswer.respond {i : Instr} {s u : State} (v : Word) (inputs : u.inputs = s.inputs)
    (ill : i ≠ .clrIll → u.ill = s.ill) (tx : drivesTx i = false → u.tx = s.tx)
    (arq : drivesArq i = false → u.arq = s.arq) : LegalAnswer i s (u.respond v) :=
  ⟨rfl, rfl, nofun, inputs, ill, tx, arq⟩

theorem LegalAnswer.txNext {s : State} (tx : TxUnit) (e : Option Emission) :
    LegalAnswer .txNext s (((s.setTx tx).respond (txnextWord tx e)).emit e) where
  respValid := by cases e <;> rfl
  respIll := by cases e <;> rfl
  txo _ := rfl
  inputs := rfl
  ill _ := rfl
  tx := nofun
  arq _ := rfl

theorem exec_legalAnswer {i : Instr} {s t : State} (hlegal : illegalIn s i = false) (h : exec i s = .next t) :
    LegalAnswer i s t := by
  cases i
  case rxRead a =>
    obtain ⟨v, rfl⟩ := exec_rxRead_next h
    exact .respond v rfl (fun _ => rfl) (fun _ => rfl) fun _ => rfl
  case read d =>
    rcases exec_read_next h with ⟨v, rfl⟩ | ⟨hd, -⟩
    · exact .respond v rfl (fun _ => rfl) (fun _ => rfl) fun _ => rfl
    · exact absurd hd (of_decide_eq_false hlegal)
  case txLoad a d =>
    rw [exec_txLoad_legal hlegal] at h
    cases h
    exact .respond _ rfl (fun _ => rfl) nofun fun _ => rfl
  case txBegin a =>
    rw [exec_txBegin_afterBegin a hlegal] at h
    cases h
    exact .respond (u := s.setTx _) _ rfl (fun _ => rfl) nofun fun _ => rfl
  case txNext =>
    rcases exec_txNext_cases s with ⟨hbusy, -⟩ | ⟨-, tx, e, -, hexec⟩ | ⟨-, -, hexec⟩
    · cases hbusy.symm.trans hlegal
    · cases hexec.symm.trans h
      exact .txNext tx e
    · cases hexec.symm.trans h
  case txReset =>
    rw [exec_txReset_not_busy hlegal] at h
    cases h
    exact .respond _ rfl (fun _ => rfl) nofun fun _ => rfl
  case arqSend a =>
    rw [exec_arqSend_not_busy hlegal] at h
    cases h
    exact .respond _ rfl (fun _ => rfl) nofun nofun
  case ack d =>
    cases h
    exact .respond _ (acknowledge_inputs d s) (fun _ => acknowledge_ill d s) nofun
      nofun
  case arqAbort =>
    cases h
    exact .respond _ rfl (fun _ => rfl) nofun nofun
  case clrIll =>
    cases h
    exact .respond _ rfl (fun hne => absurd rfl hne) (fun _ => rfl) fun _ => rfl
  case reserved x => cases hlegal
  all_goals
    cases h
    exact .respond _ rfl (fun _ => rfl) (fun _ => rfl) fun _ => rfl

/-- Everything a command that answers can do: the one exception, or a legal answer (44_system.md R213 to R215). -/
theorem exec_next_cases {i : Instr} {s t : State} (h : exec i s = .next t) :
    (illegalIn s i = true ∧ t = raiseIllegal s) ∨ (illegalIn s i = false ∧ LegalAnswer i s t) := by
  cases hill : illegalIn s i with
  | true =>
    cases (exec_of_illegalIn hill).symm.trans h
    exact .inl ⟨rfl, rfl⟩
  | false => exact .inr ⟨rfl, exec_legalAnswer hill h⟩

/-- Settles O15: `resp_ill` tells the exception from a legal answer, and `illegalIn_iff` says when each is given. -/
theorem commandsAreIllegalExactlyWhen : Obligations.CommandsAreIllegalExactlyWhen := by
  intro i s t h
  rw [← illegalIn_iff]
  rcases exec_next_cases h with ⟨hill, rfl⟩ | ⟨hlegal, hans⟩
  · exact ⟨rfl, fun _ => hill, fun _ => rfl⟩
  · rw [hans.respIll, hlegal]
    exact ⟨hans.respValid, Iff.rfl⟩

/-! ### Which unit a command writes -/

theorem exec_inputs {i : Instr} {s t : State} (h : exec i s = .next t) : t.inputs = s.inputs := by
  rcases exec_next_cases h with ⟨-, rfl⟩ | ⟨-, hans⟩
  · rfl
  · exact hans.inputs

theorem exec_tx_of_not_drivesTx {i : Instr} {s t : State} (h : exec i s = .next t) (hi : drivesTx i = false) :
    t.tx = s.tx := by
  rcases exec_next_cases h with ⟨-, rfl⟩ | ⟨-, hans⟩
  · rfl
  · exact hans.tx hi

theorem exec_arq_of_not_drivesArq {i : Instr} {s t : State} (h : exec i s = .next t) (hi : drivesArq i = false) :
    t.arq = s.arq := by
  rcases exec_next_cases h with ⟨-, rfl⟩ | ⟨-, hans⟩
  · rfl
  · exact hans.arq hi

/-- A command that is not answered as illegal leaves `ill` to CLR_ILL. -/
theorem exec_ill_of_legal {i : Instr} {s t : State} (h : exec i s = .next t) (hi : i ≠ .clrIll)
    (hlegal : t.out.respIll = false) : t.ill = s.ill := by
  rcases exec_next_cases h with ⟨-, rfl⟩ | ⟨-, hans⟩
  · cases hlegal
  · exact hans.ill hi

theorem chkAfter_of_ne {i : Instr} (acc : Byte) (hseed : ∀ d, i ≠ .chkSeed d) (hfold : ∀ d, i ≠ .chkFold d) :
    chkAfter acc i = acc := by
  cases i with
  | chkSeed d => exact absurd rfl (hseed d)
  | chkFold d => exact absurd rfl (hfold d)
  | _ => rfl

theorem rxAfter_of_ne {i : Instr} (c : Config) (rx : RxUnit) (hfeed : ∀ d, i ≠ .rxFeed d) (hreset : i ≠ .rxReset) :
    rxAfter c rx i = rx := by
  cases i with
  | rxFeed d => exact absurd rfl (hfeed d)
  | rxReset => exact absurd rfl hreset
  | _ => rfl

theorem drivesArq_of_ne {i : Instr} (hsend : ∀ a, i ≠ .arqSend a) (hack : ∀ d, i ≠ .ack d) (habort : i ≠ .arqAbort) :
    drivesArq i = false := by
  cases i with
  | arqSend a => exact absurd rfl (hsend a)
  | ack d => exact absurd rfl (hack d)
  | arqAbort => exact absurd rfl habort
  | _ => rfl

theorem drivesTx_of_ne {i : Instr} (hload : ∀ a d, i ≠ .txLoad a d) (hbegin : ∀ a, i ≠ .txBegin a)
    (hnext : i ≠ .txNext) (hreset : i ≠ .txReset) (harq : drivesArq i = false) : drivesTx i = false := by
  cases i with
  | txLoad a d => exact absurd rfl (hload a d)
  | txBegin a => exact absurd rfl (hbegin a)
  | txNext => exact absurd rfl hnext
  | txReset => exact absurd rfl hreset
  | arqSend a => cases harq
  | ack d => cases harq
  | arqAbort => cases harq
  | _ => rfl

theorem arqTick_inputs {ready : Bool} {s t : State} (h : arqTick ready s = .next t) : t.inputs = s.inputs := by
  rcases arqTick_cases h with ⟨-, -, tx, e, -, rfl⟩ | ⟨-, -, rfl⟩ | ⟨-, -, rfl⟩ | ⟨-, -, -, rfl⟩ | ⟨-, -, -, rfl⟩ |
    ⟨-, rfl⟩ <;> simp

/-- Settles O52: field by field, the commands that own it, and the fields that the tick leaves. -/
theorem commandsWriteOnlyTheirUnit : Obligations.CommandsWriteOnlyTheirUnit := by
  constructor
  · intro i s t h
    have howned := exec_ownedFields h
    refine ⟨exec_cfg h, exec_inputs h, fun hseed hfold => ?chk, fun hfeed hreset => ?rx,
      fun hload hbegin hnext hreset hsend hack habort => ?tx, fun hsend hack habort => ?arq, exec_ill_of_legal h⟩
    case chk => rw [howned.chkAcc, chkAfter_of_ne s.chkAcc hseed hfold]
    case rx => rw [howned.rx, rxAfter_of_ne s.cfg s.rx hfeed hreset]
    case tx =>
      exact exec_tx_of_not_drivesTx h
        (drivesTx_of_ne hload hbegin hnext hreset (drivesArq_of_ne hsend hack habort))
    case arq => exact exec_arq_of_not_drivesArq h (drivesArq_of_ne hsend hack habort)
  · intro ready s t h
    exact ⟨arqTick_cfg h, arqTick_inputs h, arqTick_chkAcc h, arqTick_ill h, arqTick_rx h⟩

/-! ### The byte of a cycle -/

/-- Settles O54: an emission is that of a legal TX_NEXT, which finds the controller not busy and leaves it so. -/
theorem atMostOneBytePerCycle : Obligations.AtMostOneBytePerCycle := by
  intro i s t h htxo
  rcases exec_next_cases h with ⟨-, rfl⟩ | ⟨hlegal, hans⟩
  · cases htxo
  · obtain rfl := hans.txo htxo
    have hbusy : arqBusy s = false := hlegal
    have harq : t.arq = s.arq := hans.arq rfl
    have hrest : arqBusy t = false := by rw [arqBusy, harq]; exact hbusy
    exact ⟨rfl, hans.respIll, hbusy, harq, fun _ => arqTick_of_not_busy hrest⟩

end Sys2Proof.Machine

/-! PROOFS. Reset (70_reset_and_hazards.md): the cycle with rst = 1, and why holding rst repeats it without effect. -/

namespace Sys2Proof.Machine

@[simp] theorem resetState_setInputs (s : State) (l : List CycleInput) :
    resetState (s.setInputs l) = (resetState s).setInputs l := rfl

@[simp] theorem resetState_resetState (s : State) : resetState (resetState s) = resetState s := rfl

@[simp] theorem State.setInputs_setInputs (s : State) (l l' : List CycleInput) :
    (s.setInputs l).setInputs l' = s.setInputs l' := rfl

/-- A cycle with rst = 1 is `resetState` and the step of the tape: no other port of the cycle is read. -/
theorem step_of_resetCycle {s : State} {c : CycleInput} {rest : List CycleInput} (hwf : s.cfg.wf = true)
    (hinputs : s.inputs = c :: rest) (hrst : c.rst = true) : step s = .next ((resetState s).setInputs rest) := by
  have hport := State.port_cons hinputs
  rw [step_of_reset hwf (hport ▸ hrst), State.startCycle_of_inputs hinputs]
  rfl

/-- A state that a reset left is changed by a further cycle with rst = 1 in its tape alone. -/
theorem step_resetCycle_of_reset {s : State} {c : CycleInput} {l rest : List CycleInput} (hwf : s.cfg.wf = true)
    (hinputs : l = c :: rest) (hrst : c.rst = true) :
    step ((resetState s).setInputs l) = .next (((resetState s).setInputs l).setInputs rest) := by
  have hstep : step ((resetState s).setInputs l) = .next ((resetState ((resetState s).setInputs l)).setInputs rest) :=
    step_of_resetCycle hwf hinputs hrst
  rw [hstep, resetState_setInputs, resetState_resetState]

/-- Settles O9: the state that a reset cycle leaves is `resetState` written out, on which a second one does nothing. -/
theorem resetCycleGivesTheResetState : Obligations.ResetCycleGivesTheResetState := by
  intro s c rest hwf hinputs hrst
  refine ⟨(resetState s).setInputs rest, step_of_resetCycle hwf hinputs hrst, rfl, ?_⟩
  intro c2 rest2 hinputs2 hrst2
  exact step_resetCycle_of_reset hwf hinputs2 hrst2

end Sys2Proof.Machine
